-- ==== Sys2Proof/Word.lean ====
section
/-! DEFINITION. The word types of the block (R8): bytes of IN, 32-bit interface and channel registers, 16-bit samples. -/

namespace Sys2Proof

/-- One byte of the IN space (R60). -/
abbrev Byte := BitVec 8

/-- A 32-bit pattern, read as `u32` or as two's-complement `i32` as the rule says (R8, R9). -/
abbrev Word := BitVec 32

/-- One 16-bit sample of the OUT space (R61). -/
abbrev Sample := BitVec 16

end Sys2Proof
end

