-- ==== Sys2Proof/Syntax.lean ====
section
/-! DEFINITION. The 23 rows of spec/opcode_table.json, one constructor each, and the encoded form of an instruction. -/

namespace Sys2Proof

/-- An instruction of the block: a host command (R81), a chunk of an IFF file (R86, R87), a bit of a unary code (R95) or a
predictor case (R99). A chunk carries its declared length `L`; its payload position is the walker's cursor plus 8 (R180). -/
inductive Instr where
  /-- `PARSE` (R221). -/
  | parse
  /-- `DESTROY` (R231). -/
  | destroy
  /-- `DECODE_MONO` (R164). -/
  | decodeMono
  /-- `DECODE_STEREO` (R165). -/
  | decodeStereo
  /-- `BR_INIT` (R113). -/
  | brInit
  /-- `BR_READ_BIT` (R114). -/
  | brReadBit
  /-- `BR_READ_BITS n` (R115): `n` is the operand byte. -/
  | brReadBits (n : Byte)
  /-- `CH_INIT c` (R151): `c` is the operand byte. -/
  | chInit (c : Byte)
  /-- `CH_DECODE_SAMPLE c` (R152): `c` is the operand byte. -/
  | chDecodeSample (c : Byte)
  /-- `"CAT "`, a container (R191). -/
  | cat (len : Word)
  /-- `"GLOB"`, loop timing (R193). -/
  | glob (len : Word)
  /-- `"HEAD"`, sample format (R195). -/
  | head (len : Word)
  /-- `"SINF"`, stream information (R197). -/
  | sinf (len : Word)
  /-- `"SLCE"`, one slice descriptor (R199). -/
  | slce (len : Word)
  /-- `"SDAT"`, the audio payload (R202). -/
  | sdat (len : Word)
  /-- A chunk with any other tag (R203). -/
  | unknownTag (tag len : Word)
  /-- A 0 bit of a unary code (R148). -/
  | unaryZero
  /-- A 1 bit of a unary code (R149). -/
  | unaryStop
  /-- Predictor case of energy index 0 (R140). -/
  | predK0
  /-- Predictor case of energy index 1 (R141). -/
  | predK1
  /-- Predictor case of energy index 2 (R142). -/
  | predK2
  /-- Predictor case of energy index 3 (R143). -/
  | predK3
  /-- Predictor case of energy index 4 (R144). -/
  | predK4
  deriving DecidableEq, Repr

/-- The four kinds of encoded input, the `format` values of spec/opcode_table.json (30_encoding.md). -/
inductive Format where
  /-- `CMD`: a 32-bit command word (R80). -/
  | command
  /-- `CHUNK_TAG`: an 8-byte chunk header, read as one big-endian number: the tag, then `L` (R84). -/
  | chunk
  /-- `DWOP_UNARY_BIT`: one bit of the part `U` of a code word (R95). -/
  | unaryBit
  /-- `DWOP_PRED_INDEX`: the 3-bit energy index `k` (R99). -/
  | predIndex
  deriving DecidableEq, Repr

/-- How many bits a code of each format has. -/
def Format.width : Format → Nat
  | .command => 32
  | .chunk => 64
  | .unaryBit => 1
  | .predIndex => 3

/-- An encoded instruction: which decoder reads it, and its bits (zero above the format's width). -/
structure Code where
  format : Format
  bits : BitVec 64
  deriving DecidableEq, Repr

end Sys2Proof
end

