-- ==== Sys2Proof/Decode.lean ====
section
/-! DEFINITION. The decoders of 30_encoding.md, total and rejecting by name, and the encoder written from the same tables. -/

namespace Sys2Proof

/-- Why a code is no instruction. -/
inductive DecodeError where
  /-- A command word with `RSV ≠ 0` (R83). -/
  | reservedBits
  /-- A command word whose `OPC` is not in the table of R81 (R83). -/
  | unknownOpcode
  /-- A command word with `OPD ≠ 0` where it must be 0 (R83). -/
  | operandNotZero
  /-- An energy index 5 to 7, which cannot occur (R99). -/
  | unusedIndex
  /-- Bits above the format's width. -/
  | tooWide
  /-- Fewer than the 8 bytes of a chunk header (R182). -/
  | shortHeader
  deriving DecidableEq, Repr

/-- The tag `"CAT "` (R86). -/
abbrev tagCat : Word := 0x43415420
/-- The tag `"GLOB"` (R86). -/
abbrev tagGlob : Word := 0x474C4F42
/-- The tag `"HEAD"` (R86). -/
abbrev tagHead : Word := 0x48454144
/-- The tag `"SINF"` (R86). -/
abbrev tagSinf : Word := 0x53494E46
/-- The tag `"SLCE"` (R86). -/
abbrev tagSlce : Word := 0x534C4345
/-- The tag `"SDAT"` (R86). -/
abbrev tagSdat : Word := 0x53444154

/-- The recognized tags (R86). -/
abbrev knownTags : List Word := [tagCat, tagGlob, tagHead, tagSinf, tagSlce, tagSdat]

/-- The big-endian number of a list of bytes, first byte most significant (R63). -/
def bigEndian : List Byte → Nat
  | [] => 0
  | b :: rest => b.toNat * 256 ^ rest.length + bigEndian rest

/-- A command without an operand: `OPD` must be 0 (R83). -/
def noOperand (opd : Byte) (i : Instr) : Except DecodeError Instr :=
  if opd = 0 then .ok i else .error .operandNotZero

/-- The opcode map of R81, after the check of `RSV` (R83). -/
def decodeOpcode (opc opd : Byte) : Except DecodeError Instr :=
  if opc = 0x01 then noOperand opd .parse
  else if opc = 0x02 then noOperand opd .destroy
  else if opc = 0x03 then noOperand opd .decodeMono
  else if opc = 0x04 then noOperand opd .decodeStereo
  else if opc = 0x10 then noOperand opd .brInit
  else if opc = 0x11 then noOperand opd .brReadBit
  else if opc = 0x12 then .ok (.brReadBits opd)
  else if opc = 0x20 then .ok (.chInit opd)
  else if opc = 0x21 then .ok (.chDecodeSample opd)
  else .error .unknownOpcode

/-- Decode a command word (R80, R81, R83): `OPC` in [7:0], `OPD` in [15:8], `RSV` in [31:16]. -/
def decodeCommand (w : Word) : Except DecodeError Instr :=
  if w.extractLsb' 16 16 = 0 then decodeOpcode (w.extractLsb' 0 8) (w.extractLsb' 8 8)
  else .error .reservedBits

/-- Decode a chunk header (R84, R86, R87): every header is an instruction, and tags compare as whole 32-bit values. -/
def decodeChunk (tag len : Word) : Instr :=
  if tag = tagCat then .cat len
  else if tag = tagGlob then .glob len
  else if tag = tagHead then .head len
  else if tag = tagSinf then .sinf len
  else if tag = tagSlce then .slce len
  else if tag = tagSdat then .sdat len
  else .unknownTag tag len

/-- Decode one bit of a unary code (R148, R149). -/
def decodeUnaryBit (b : Bool) : Instr := if b then .unaryStop else .unaryZero

/-- Decode an energy index (R99). -/
def decodePredIndex (k : BitVec 3) : Except DecodeError Instr :=
  if k = 0 then .ok .predK0
  else if k = 1 then .ok .predK1
  else if k = 2 then .ok .predK2
  else if k = 3 then .ok .predK3
  else if k = 4 then .ok .predK4
  else .error .unusedIndex

/-- Decode any code: by its format, refusing bits above the format's width. -/
def decode (c : Code) : Except DecodeError Instr :=
  if 2 ^ c.format.width ≤ c.bits.toNat then .error .tooWide
  else
    match c.format with
    | .command => decodeCommand (c.bits.extractLsb' 0 32)
    | .chunk => .ok (decodeChunk (c.bits.extractLsb' 32 32) (c.bits.extractLsb' 0 32))
    | .unaryBit => .ok (decodeUnaryBit (c.bits.getLsbD 0))
    | .predIndex => decodePredIndex (c.bits.extractLsb' 0 3)

/-- Decode the chunk header at the front of a byte string (R84), with the bytes that follow the header. -/
def decodeHeaderBytes (bytes : List Byte) : Except DecodeError (Instr × List Byte) :=
  if bytes.length < 8 then .error .shortHeader
  else
    .ok (decodeChunk (BitVec.ofNat 32 (bigEndian (bytes.take 4)))
      (BitVec.ofNat 32 (bigEndian ((bytes.drop 4).take 4))), bytes.drop 8)

/-- A command word: `RSV` = 0, `OPD`, `OPC` (R80). -/
def commandCode (opc opd : Byte) : Code := ⟨.command, (opd ++ opc).setWidth 64⟩

/-- A chunk header: tag, then `L` (R84). -/
def chunkCode (tag len : Word) : Code := ⟨.chunk, tag ++ len⟩

/-- Encode an instruction: the encoded words of R81, the tags of R86, the bits of R95 and the indexes of R99. -/
def encode : Instr → Code
  | .parse => commandCode 0x01 0
  | .destroy => commandCode 0x02 0
  | .decodeMono => commandCode 0x03 0
  | .decodeStereo => commandCode 0x04 0
  | .brInit => commandCode 0x10 0
  | .brReadBit => commandCode 0x11 0
  | .brReadBits n => commandCode 0x12 n
  | .chInit c => commandCode 0x20 c
  | .chDecodeSample c => commandCode 0x21 c
  | .cat len => chunkCode tagCat len
  | .glob len => chunkCode tagGlob len
  | .head len => chunkCode tagHead len
  | .sinf len => chunkCode tagSinf len
  | .slce len => chunkCode tagSlce len
  | .sdat len => chunkCode tagSdat len
  | .unknownTag tag len => chunkCode tag len
  | .unaryZero => ⟨.unaryBit, 0⟩
  | .unaryStop => ⟨.unaryBit, 1⟩
  | .predK0 => ⟨.predIndex, 0⟩
  | .predK1 => ⟨.predIndex, 1⟩
  | .predK2 => ⟨.predIndex, 2⟩
  | .predK3 => ⟨.predIndex, 3⟩
  | .predK4 => ⟨.predIndex, 4⟩

/-- What `decodeCommand` reads, as an option. -/
def commandOf? (w : Word) : Option Instr :=
  match decodeCommand w with
  | .ok i => some i
  | .error _ => none

/-- What `decodePredIndex` reads, as an option. -/
def predOf? (k : BitVec 3) : Option Instr :=
  match decodePredIndex k with
  | .ok i => some i
  | .error _ => none

/-- The instruction of a word of spec/opcode_table.json. The four formats use the same numbers (PARSE, UNARY_STOP and
PRED_K1 are all 1), and a table word does not carry its format, so the number of bits chooses (log 8). No bits are a chunk
tag (UNKNOWN_TAG fixes none); 1 or 2 bits are a unary bit and 3 bits an energy index; up to a byte, 0 and 1 are unary bits
and 2 to 4 energy indexes. A wider word is a command word if it is a legal one, and else a chunk tag whose length word is
the bits from 32 up. -/
def decodeTableWord (nbits w : Nat) : Option Instr :=
  if nbits = 0 then some (decodeChunk (BitVec.ofNat 32 w) 0)
  else if nbits < 3 then some (decodeUnaryBit (w.testBit 0))
  else if nbits = 3 then predOf? (BitVec.ofNat 3 w)
  else if nbits ≤ 8 then
    if w < 2 then some (decodeUnaryBit (w.testBit 0))
    else if w < 8 then predOf? (BitVec.ofNat 3 w)
    else none
  else
    match (if nbits ≤ 32 then commandOf? (BitVec.ofNat 32 w) else none) with
    | some i => some i
    | none => some (decodeChunk (BitVec.ofNat 32 w) (BitVec.ofNat 32 (w / 2 ^ 32)))

end Sys2Proof
end

