-- ==== Sys2Proof/Config.lean ====
section
/-! DEFINITION. The implementation parameters of R7. Those the block computes with are plain data, held in the state and
free in every statement (log 1); the PCM byte order is a constant without a value (log 5). -/

namespace Sys2Proof

/-- The parameters of R7 that the block computes with: fixed for the life of a machine. -/
structure Params where
  /-- `IN_SIZE`: bytes in the IN space (OPEN). -/
  inSize : Nat
  /-- `OUT_SIZE`: 16-bit slots in the OUT space (OPEN). -/
  outSize : Nat
  /-- `UNARY_CAP`: the most bits the unary phase of one sample may read. -/
  unaryCap : Nat
  /-- `MAX_SLICES`: capacity of the slice table. -/
  maxSlices : Nat
  /-- `MAX_FRAMES`: the frame-count ceiling. -/
  maxFrames : Nat
  /-- `MIN_FILE_BYTES`: the smallest input PARSE accepts. -/
  minFileBytes : Nat
  /-- `FRAME_BOUND` as plain data: the payload lengths at which it differs from the default `2·len + 1024`,
  each with its value. Every function on 32-bit lengths has this form. -/
  frameBoundAt : List (Nat × Nat)
  deriving DecidableEq, Repr

/-- The defaults of R7. DESIGN CHOICE (log 1): `IN_SIZE` and `OUT_SIZE`, which R7 leaves OPEN, are the 2^20 of
95_test_vectors.md. -/
def Params.default : Params where
  inSize := 1048576
  outSize := 1048576
  unaryCap := 50000
  maxSlices := 256
  maxFrames := 10000000
  minFileBytes := 12
  frameBoundAt := []

/-- What the spec requires of the parameters: `IN_SIZE ≥ MIN_FILE_BYTES` (R7), `MAX_SLICES ≥ 1` (R228). DEDUCED (log 1):
`MIN_FILE_BYTES ≥ 4`, without which PARSE's first read would break R63; and sizes that the 32-bit registers of R8 can count. -/
abbrev Params.Valid (p : Params) : Prop :=
  p.minFileBytes ≤ p.inSize ∧ 4 ≤ p.minFileBytes ∧ 1 ≤ p.maxSlices ∧ p.maxSlices < 2 ^ 32 ∧ p.maxFrames < 2 ^ 32

/-- The two byte orders a host may use for 16-bit PCM. -/
inductive ByteOrder where
  | littleEndian
  | bigEndian
  deriving DecidableEq, Repr, Inhabited

/-- `PCM_BYTE_ORDER` (R7, R67): OPEN, so a constant without a value. Only a host that turns samples into bytes uses it. -/
opaque Config.pcmByteOrder : ByteOrder

end Sys2Proof
end

