-- ==== Sys2Proof/Machine/State.lean ====
section
/-! DEFINITION. Everything the spec gives the machine, as plain data (10_state.md, 20_memory.md, R280), the reasons a step can
stop, and the state after reset. -/

namespace Sys2Proof.Machine

/-- Why a step stops. Each names something the spec says cannot happen (log 6); all are safe: the model stops where the
spec gives no effect. -/
inductive Fault where
  /-- A bit read, or a sample decode, whose bound slice does not lie in IN (R71, R259). Raised by BR_READ_BIT, BR_READ_BITS and
  CH_DECODE_SAMPLE and by the unary bits. Safe. -/
  | readerOutsideIn
  /-- A chunk whose payload does not lie in IN (R63, R183). Raised by the chunk handlers. Safe. -/
  | chunkOutsideIn
  /-- A chunk met while no level of a walk is open (R42). Raised by the chunk handlers. Safe. -/
  | noChunkInProgress
  /-- A unary bit met outside the unary loop of a sample (R124). Raised by the two unary bits. Safe. -/
  | noUnaryInProgress
  /-- A predictor case met outside the predictor step of a sample (R134). Raised by the five predictor cases. Safe. -/
  | noPredictorInProgress
  /-- A host write to an IN offset past `IN_SIZE` (R60). Raised by the host's access. Safe. -/
  | hostOutsideIn
  /-- A host read of an OUT slot past `OUT_SIZE` (R61). Raised by the host's access. Safe. -/
  | hostOutsideOut
  deriving DecidableEq, Repr

/-- Why a step gives no meaning. -/
inductive Refusal where
  /-- An instruction without a meaning in this model, named as spec/opcode_table.json names it. Safe. -/
  | notModelled (mnemonic : String)
  /-- A host write to IN or to an argument register while BUSY, after which the running command's results are unspecified
  (R284, 93_implementation_defined.md I5). Raised by the host's access. Safe. -/
  | writeWhileBusy
  deriving DecidableEq, Repr

/-- `STATUS.STATE` (R23). -/
inductive CmdState where
  | idle
  | busy
  | done
  | error
  deriving DecidableEq, Repr

/-- The stored fields of `STATUS` (R22); its reserved bits read as 0 and are not stored. -/
structure Status where
  state : CmdState
  trunc : Bool
  short : Bool
  decoded : Bool
  err : BitVec 8
  deriving DecidableEq, Repr

/-- The error kinds of R251. -/
inductive ErrorKind where
  | tooSmall
  | notIFF
  /-- Reported by `STATUS.TRUNC`, never raised (R252). -/
  | truncatedChunk
  | noAudio
  | corrupt
  | oversize
  | outOfMemory
  | badCommand
  | badArgument
  deriving DecidableEq, Repr

/-- One entry of the slice table (R29). -/
structure Slice where
  off : Word
  len : Word
  deriving DecidableEq, Repr

/-- The bit reader `BR` (R30): a byte slice of IN and the number of bits consumed. -/
structure BitReader where
  base : Nat
  len : Nat
  pos : Nat
  deriving DecidableEq, Repr

/-- Five 32-bit registers: the predictor registers `S[0..4]` or the energies `e[0..4]` of a channel (R33). -/
structure Five where
  r0 : Word
  r1 : Word
  r2 : Word
  r3 : Word
  r4 : Word
  deriving DecidableEq, Repr

/-- A channel state (R33). -/
structure Channel where
  /-- The predictor registers, i32. -/
  s : Five
  /-- The energies, u32. -/
  e : Five
  /-- The range value, u32. -/
  rv : Word
  /-- The bits accumulated, signed (R38). -/
  ba : Int
  /-- Set when the channel's last sample failed (R40). -/
  dead : Bool
  deriving DecidableEq, Repr

/-- Which channel state: `CH[0]` is left and mono, `CH[1]` right (R33). -/
inductive Chan where
  | c0
  | c1
  deriving DecidableEq, Repr

/-- One level of the chunk walk (R42): its cursor and its boundary. -/
structure Level where
  pos : Nat
  stop : Nat
  deriving DecidableEq, Repr

/-- The working values of the unary loop (R124); `z` counts the zero bits read. -/
structure UnaryRegs where
  acc : Word
  cs : Word
  qc : Nat
  z : Nat
  deriving DecidableEq, Repr

/-- The place inside a command in progress: the MODEL's own (log 4). Between two host accesses it is `none` (R5). -/
inductive Work where
  /-- No command is in progress. -/
  | none
  /-- PARSE is walking chunks, at the cursor of the innermost level (R180). -/
  | walk
  /-- CH_DECODE_SAMPLE is in the unary loop of channel `c` (R124). -/
  | unary (c : Chan) (u : UnaryRegs)
  /-- CH_DECODE_SAMPLE has left the unary loop and is before R126. -/
  | range (c : Chan) (u : UnaryRegs)
  /-- CH_DECODE_SAMPLE has the signed delta `d` of R131 and is before R134. -/
  | predict (c : Chan) (d : Word)
  /-- CH_DECODE_SAMPLE has updated the predictor and is before R145. -/
  | emit (c : Chan)
  deriving DecidableEq, Repr

/-- One access the host makes while the block is not busy (R6, R32, R60, R61, R102). -/
inductive HostAccess where
  /-- Write one byte of IN. -/
  | writeIn (a : Nat) (b : Byte)
  /-- Write the REG register at a byte offset; the offset of `CMD` starts a command. -/
  | writeReg (off : Nat) (v : Word)
  /-- Read the REG register at a byte offset. -/
  | readReg (off : Nat)
  /-- Read one OUT slot. -/
  | readOut (i : Nat)
  deriving DecidableEq, Repr

/-- A sparse memory of `w`-bit cells: cells listed by rising address, none equal to 0, what an unlisted address reads as. -/
abbrev Memory (w : Nat) := List (Nat × BitVec w)

/-- The state of the block (10_state.md, 20_memory.md), its parameters (log 1), the place inside a command (log 4) and the
host's side of the interface (log 2). -/
structure State where
  /-- The parameters of R7: configuration, changed by no step. -/
  params : Params
  /-- `CMD` (R21). -/
  cmd : Word
  /-- `STATUS` (R22). -/
  status : Status
  /-- `IN_LEN` (R24). -/
  inLen : Word
  /-- `ARG_OFF` (R25). -/
  argOff : Word
  /-- `ARG_LEN` (R25). -/
  argLen : Word
  /-- `ARG_N` (R26). -/
  argN : Word
  /-- `RESULT` (R27). -/
  result : Word
  /-- `PCM_FRAMES` (R28). -/
  pcmFrames : Word
  /-- `DEC_CHANNELS` (R28). -/
  decChannels : Word
  /-- `SAMPLE_RATE` (R28). -/
  sampleRate : Word
  /-- `CHANNELS` (R28). -/
  channels : Word
  /-- `BYTES_PER_SAMPLE` (R28). -/
  bytesPerSample : Word
  /-- `TEMPO_MBPM` (R28). -/
  tempoMbpm : Word
  /-- `TIMESIG` (R28). -/
  timesig : Word
  /-- `BARS_BEATS` (R28). -/
  barsBeats : Word
  /-- `TOTAL_FRAMES` (R28). -/
  totalFrames : Word
  /-- The valid entries of the slice table, in order (R29); `SLICE_COUNT` is their number. -/
  slices : List Slice
  /-- The IN space (R60). -/
  inMem : Memory 8
  /-- The OUT space (R61). -/
  outMem : Memory 16
  /-- The bit reader (R30). -/
  br : BitReader
  /-- `CH[0]` (R33). -/
  ch0 : Channel
  /-- `CH[1]` (R33). -/
  ch1 : Channel
  /-- The walker's stack, innermost level first (R42). -/
  walker : List Level
  /-- The place inside a command in progress. -/
  work : Work
  /-- The host's accesses not yet made, next first. -/
  host : List HostAccess
  /-- The value last returned to the host. -/
  hostData : Word
  deriving DecidableEq, Repr

/-- The initial channel state (R35). -/
def Channel.initial : Channel where
  s := ⟨0, 0, 0, 0, 0⟩
  e := ⟨2560, 2560, 2560, 2560, 2560⟩
  rv := 2
  ba := 0
  dead := false

/-- The state after reset (R280). DESIGN CHOICE: the parameters (log 1), the contents of IN and OUT (log 3), no command in
progress (log 4) and no host access waiting (log 2). -/
def State.reset : State where
  params := Params.default
  cmd := 0
  status := { state := .idle, trunc := false, short := false, decoded := false, err := 0 }
  inLen := 0
  argOff := 0
  argLen := 0
  argN := 0
  result := 0
  pcmFrames := 0
  decChannels := 0
  sampleRate := 0
  channels := 0
  bytesPerSample := 0
  tempoMbpm := 0
  timesig := 0
  barsBeats := 0
  totalFrames := 0
  slices := []
  inMem := []
  outMem := []
  br := { base := 0, len := 0, pos := 0 }
  ch0 := Channel.initial
  ch1 := Channel.initial
  walker := []
  work := .none
  host := []
  hostData := 0

end Sys2Proof.Machine
end

