-- ==== Sys2Proof/Machine/Flags.lean ====
section
/-! DEFINITION. `STATUS`: the word software reads, the error codes, and every setting and clearing of a flag (R22, R23, R251). -/

namespace Sys2Proof.Machine

/-- The two bits of `STATUS.STATE` (R23). -/
def CmdState.bits : CmdState → BitVec 2
  | .idle => 0
  | .busy => 1
  | .done => 2
  | .error => 3

/-- The error codes of R251. -/
def ErrorKind.code : ErrorKind → BitVec 8
  | .tooSmall => 1
  | .notIFF => 2
  | .truncatedChunk => 3
  | .noAudio => 4
  | .corrupt => 5
  | .oversize => 6
  | .outOfMemory => 7
  | .badCommand => 8
  | .badArgument => 9

/-- The `STATUS` word (R22): `STATE` [1:0], `TRUNC` [2], `SHORT` [3], `DECODED` [4], `ERR` [15:8]; the other bits read as 0. -/
def Status.word (t : Status) : Word :=
  0#16 ++ t.err ++ 0#3 ++ BitVec.ofBool t.decoded ++ BitVec.ofBool t.short ++ BitVec.ofBool t.trunc ++ t.state.bits

/-- Set `STATUS.STATE`. -/
def State.setCmdState (s : State) (x : CmdState) : State := { s with status := { s.status with state := x } }

/-- Set `STATUS.ERR`. -/
def State.setErr (s : State) (x : BitVec 8) : State := { s with status := { s.status with err := x } }

/-- Set `STATUS.TRUNC` (R183). -/
def State.setTrunc (s : State) : State := { s with status := { s.status with trunc := true } }

/-- Set `STATUS.SHORT` (R163). -/
def State.setShort (s : State) : State := { s with status := { s.status with short := true } }

/-- Set the SDAT latch `STATUS.DECODED` (R41, R224). -/
def State.setDecoded (s : State) : State := { s with status := { s.status with decoded := true } }

/-- Clear `TRUNC`, `SHORT` and `DECODED`, as PARSE, DECODE_MONO, DECODE_STEREO and DESTROY do at their start (R22). -/
def State.clearFlags (s : State) : State :=
  { s with status := { s.status with trunc := false, short := false, decoded := false } }

end Sys2Proof.Machine
end

