-- ==== Sys2Proof/Machine/Ops.lean ====
section
/-! DEFINITION. The operations every command shares: sparse memory, the REG map, the channel states, the released state, and
how a command begins, ends and raises an error. -/

namespace Sys2Proof.Machine

/-! ## Memory -/

/-- The cell at an address; an unlisted address reads as 0. DESIGN CHOICE (log 3) for cells nothing has written. -/
def Memory.read {w : Nat} : Memory w → Nat → BitVec w
  | [], _ => 0
  | (b, v) :: rest, a => if a = b then v else Memory.read rest a

/-- Store one cell, keeping the canonical form: rising addresses, no cell equal to 0. -/
def Memory.write {w : Nat} : Memory w → Nat → BitVec w → Memory w
  | [], a, x => if x = 0 then [] else [(a, x)]
  | (b, v) :: rest, a, x =>
    if a < b then (if x = 0 then (b, v) :: rest else (a, x) :: (b, v) :: rest)
    else if a = b then (if x = 0 then rest else (a, x) :: rest)
    else (b, v) :: Memory.write rest a x

/-- The canonical form: addresses strictly rising and no listed cell equal to 0. -/
abbrev Memory.wf {w : Nat} (m : Memory w) : Prop :=
  (m.map Prod.fst).Pairwise (· < ·) ∧ ∀ c ∈ m, c.2 ≠ 0

/-- `MemRead(a, n)` (R63): `n` bytes of IN from offset `a`, the lowest offset most significant; used with `n ≤ 4`. -/
def memRead (m : Memory 8) (a : Nat) : Nat → Word
  | 0 => 0
  | n + 1 => (memRead m a n <<< 8) ||| (Memory.read m (a + n)).setWidth 32

/-- `MemWrite(i, 2, v)` (R64): a sample into an OUT slot. -/
def memWrite (m : Memory 16) (i : Nat) (v : Sample) : Memory 16 := Memory.write m i v

/-- The PCM of a finished PARSE as bytes, in the byte order R7 leaves open: what a host makes of OUT (R67). -/
def sampleBytes (order : ByteOrder) (v : Sample) : List Byte :=
  match order with
  | .littleEndian => [v.extractLsb' 0 8, v.extractLsb' 8 8]
  | .bigEndian => [v.extractLsb' 8 8, v.extractLsb' 0 8]

/-- The first `n` OUT slots. -/
def pcmSamples (m : Memory 16) (n : Nat) : List Sample := (List.range n).map (Memory.read m)

/-- The decoded PCM, `OUT[0 .. PCM_FRAMES·DEC_CHANNELS - 1]` (R61). -/
def State.pcm (s : State) : List Sample := pcmSamples s.outMem (s.pcmFrames.toNat * s.decChannels.toNat)

/-- The decoded PCM as a host's bytes (R67). -/
def State.pcmBytes (s : State) : List Byte := s.pcm.flatMap (sampleBytes Config.pcmByteOrder)

/-! ## Registers -/

/-- `R[SLICE_COUNT]` (R29). -/
def State.sliceCount (s : State) : Word := BitVec.ofNat 32 s.slices.length

/-- The slice-table word at a byte offset past the table's start (R20, R29): offsets and lengths alternate, an entry past
`SLICE_COUNT` reads as 0, and so does an offset past the table or not a multiple of 4 (R32). -/
def State.readSliceTable (s : State) (off : Nat) : Word :=
  if s.params.maxSlices ≤ off / 8 then 0
  else if off % 8 = 0 then ((s.slices[off / 8]?).map Slice.off).getD 0
  else if off % 8 = 4 then ((s.slices[off / 8]?).map Slice.len).getD 0
  else 0

/-- A host read of REG (R20, R32): an unmapped offset reads as 0, and no read has a side effect. -/
def State.readReg (s : State) (off : Nat) : Word :=
  if off = 0x000 then s.cmd
  else if off = 0x004 then s.status.word
  else if off = 0x008 then s.inLen
  else if off = 0x00C then s.argOff
  else if off = 0x010 then s.argLen
  else if off = 0x014 then s.argN
  else if off = 0x018 then s.result
  else if off = 0x01C then s.pcmFrames
  else if off = 0x020 then s.decChannels
  else if off = 0x024 then s.sampleRate
  else if off = 0x028 then s.channels
  else if off = 0x02C then s.bytesPerSample
  else if off = 0x030 then s.tempoMbpm
  else if off = 0x034 then s.timesig
  else if off = 0x038 then s.barsBeats
  else if off = 0x03C then s.totalFrames
  else if off = 0x040 then s.sliceCount
  else if 0x100 ≤ off then s.readSliceTable (off - 0x100)
  else 0

/-- Is there an RW argument register at this offset (R20)? -/
def isArgReg (off : Nat) : Bool := off == 0x008 || off == 0x00C || off == 0x010 || off == 0x014

/-- A host write of a REG register other than `CMD` (R20, R32): only the RW registers take it. -/
def State.writeArgReg (s : State) (off : Nat) (v : Word) : State :=
  if off = 0x008 then { s with inLen := v }
  else if off = 0x00C then { s with argOff := v }
  else if off = 0x010 then { s with argLen := v }
  else if off = 0x014 then { s with argN := v }
  else s

/-- The channel state `CH[c]` (R33). -/
def State.chan (s : State) : Chan → Channel
  | .c0 => s.ch0
  | .c1 => s.ch1

/-- Replace the channel state `CH[c]`. -/
def State.setChan (s : State) (c : Chan) (x : Channel) : State :=
  match c with
  | .c0 => { s with ch0 := x }
  | .c1 => { s with ch1 := x }

/-- The initial channel state (R35): what CH_INIT and the start of a stream put. -/
def initChannel : Channel where
  s := ⟨0, 0, 0, 0, 0⟩
  e := ⟨2560, 2560, 2560, 2560, 2560⟩
  rv := 2
  ba := 0
  dead := false

/-- `Release()`: the released state (R45). -/
def State.release (s : State) : State :=
  { s with
    pcmFrames := 0, decChannels := 0, sampleRate := 0, channels := 0, bytesPerSample := 0, tempoMbpm := 0,
    timesig := 0, barsBeats := 0, totalFrames := 0, slices := [] }

/-! ## Commands: beginning, ending, raising -/

/-- How the body of a command, or a part of one, ends. -/
inductive CmdResult where
  /-- Without an error. -/
  | ok (s : State)
  /-- By `raise e` (R254): `s` holds every change made before it. -/
  | raised (e : ErrorKind) (s : State)
  deriving DecidableEq, Repr

/-- The start of a command (R80): `STATUS.ERR <- 0`; `STATE` is BUSY while it runs (R23). -/
def State.beginCommand (s : State) : State := (s.setErr 0).setCmdState .busy

/-- The end of a command without an error (R80): `STATE <- DONE`. -/
def State.finish (s : State) : State := s.setCmdState .done

/-- The one way an error is taken (R254): the command has ended, what it changed stays, `RESULT` is not written, `ERR` holds
the code and `STATE` is ERROR. There is no vector and no return (R250, R256). -/
def State.raise (s : State) (e : ErrorKind) : State := (s.setErr e.code).setCmdState .error

/-- End a command whose rule does not release (R254). -/
def endCommand : CmdResult → State
  | .ok s => s.finish
  | .raised e s => s.raise e

/-- End PARSE: every raise is followed by the release of R230, and the walk unwinds (R188), so no level stays open (R42). -/
def endParse : CmdResult → State
  | .ok s => s.finish
  | .raised e s => ({ s with walker := [] }.release).raise e

end Sys2Proof.Machine
end

