-- ==== Sys2Proof/Machine/Operands.lean ====
section
/-! DEFINITION. Where instructions find their operands: argument slices and counts, channel numbers, chunk payloads. -/

namespace Sys2Proof.Machine

/-- `IN_LEN ≤ IN_SIZE` (R222, R259). -/
def State.inLenOk (s : State) : Bool := decide (s.inLen.toNat ≤ s.params.inSize)

/-- The argument slice lies in `IN[0 .. IN_LEN-1]`, over the integers (R25, R259). -/
def State.argSliceOk (s : State) : Bool := s.inLenOk && decide (s.argOff.toNat + s.argLen.toNat ≤ s.inLen.toNat)

/-- The frames asked for fit in OUT with `ch` channels, over the integers (R164, R165, R259). -/
def State.argFramesOk (s : State) (ch : Nat) : Bool := decide (ch * s.argN.toNat ≤ s.params.outSize)

/-- The channel an operand byte names; 2 to 255 name none (R82). -/
def chanOf (c : Byte) : Option Chan := if c = 0 then some .c0 else if c = 1 then some .c1 else none

/-- The bytes the bound reader may read exist: an empty slice, or one that lies in IN (R71). -/
def State.readerOk (s : State) : Bool := decide (s.br.len = 0) || decide (s.br.base + s.br.len ≤ s.params.inSize)

/-- The payload of the chunk at the innermost level's cursor, 8 bytes past it (R180). -/
def State.payload? (s : State) : Option Nat :=
  match s.walker with
  | [] => none
  | l :: _ => some (l.pos + 8)

/-- The tag of the chunk header at an IN offset (R181). -/
def State.tagAt (s : State) (pos : Nat) : Word := memRead s.inMem pos 4

/-- The declared length of the chunk header at an IN offset (R181). -/
def State.lenAt (s : State) (pos : Nat) : Word := memRead s.inMem (pos + 4) 4

/-- The length of a chunk in its level: header, payload and the pad byte of an odd payload (R85, R187). -/
def chunkSize (len : Word) : Nat := 8 + len.toNat + len.toNat % 2

/-- `FRAME_BOUND(len)` (R7, R226): the parameter's value at this length, by default `2·len + 1024`. -/
def frameBound (p : Params) (len : Nat) : Nat := (p.frameBoundAt.lookup len).getD (2 * len + 1024)

end Sys2Proof.Machine
end

