-- ==== Sys2Proof/Machine/BitReader.lean ====
section
/-! DEFINITION. The bit reader (40_bit_reader.md): its operations and BR_INIT, BR_READ_BIT, BR_READ_BITS. -/

namespace Sys2Proof.Machine

/-- `Bind(off, len)` (R110). -/
def bindReader (off len : Nat) : BitReader := { base := off, len := len, pos := 0 }

/-- The bit at the reader's position (R111): most significant bit first, 0 past the end of the slice. -/
def currentBit (m : Memory 8) (br : BitReader) : Bool :=
  if br.pos / 8 < br.len then (Memory.read m (br.base + br.pos / 8)).getLsbD (7 - br.pos % 8) else false

/-- `read_bit()` (R111). -/
def readBit (m : Memory 8) (br : BitReader) : Bool × BitReader := (currentBit m br, { br with pos := br.pos + 1 })

/-- `read_bits(n)` (R112): `n` bits, the first read most significant. -/
def readBits (m : Memory 8) (br : BitReader) : Nat → Word × BitReader
  | 0 => (0, br)
  | n + 1 =>
    let (v, br1) := readBits m br n
    let (b, br2) := readBit m br1
    ((v <<< 1) ||| (BitVec.ofBool b).setWidth 32, br2)

/-- BR_INIT after the command's start (R113). -/
def brInitBody (s : State) : CmdResult :=
  if s.argSliceOk then .ok { s with br := bindReader s.argOff.toNat s.argLen.toNat, result := 0 }
  else .raised .badArgument s

/-- BR_READ_BITS of a legal count after the command's start (R115). -/
def brReadBitsBody (n : Nat) (s : State) : CmdResult :=
  let (v, br) := readBits s.inMem s.br n
  .ok { s with br := br, result := v }

/-- BR_READ_BIT after the command's start (R114). -/
def brReadBitBody (s : State) : CmdResult :=
  let (b, br) := readBit s.inMem s.br
  .ok { s with br := br, result := (BitVec.ofBool b).setWidth 32 }

/-- `BR_INIT` (R113). -/
def execBrInit (s : State) : Host.Outcome State Fault Refusal := .next (endCommand (brInitBody s.beginCommand))

/-- `BR_READ_BIT` (R114). -/
def execBrReadBit (s : State) : Host.Outcome State Fault Refusal :=
  if s.readerOk then .next (endCommand (brReadBitBody s.beginCommand)) else .fault .readerOutsideIn

/-- `BR_READ_BITS n` (R115). -/
def execBrReadBits (n : Byte) (s : State) : Host.Outcome State Fault Refusal :=
  if 32 < n.toNat then .next (s.beginCommand.raise .badArgument)
  else if s.readerOk then .next (endCommand (brReadBitsBody n.toNat s.beginCommand))
  else .fault .readerOutsideIn

end Sys2Proof.Machine
end

