-- ==== Sys2Proof/Machine/Channel.lean ====
section
/-! DEFINITION. The DWOP channel decoder (41_dwop_channel.md): the sample operation step by step, the unary bits and predictor
cases as instructions, CH_INIT and CH_DECODE_SAMPLE. -/

namespace Sys2Proof.Machine

/-! ## Predictor selection and quantizer step -/

/-- Register `k` of five; every index from 4 up gives the last. -/
def Five.get (f : Five) (k : Nat) : Word :=
  match k with
  | 0 => f.r0
  | 1 => f.r1
  | 2 => f.r2
  | 3 => f.r3
  | _ => f.r4

/-- One step of the scan of R122: `i` replaces `k` when its energy is strictly smaller, compared unsigned. -/
def scanEnergy (e : Five) (k i : Nat) : Nat := if (e.get i).toNat < (e.get k).toNat then i else k

/-- The energy index `k` (R122): the least index at which the energies take their minimum. -/
def energyIndex (e : Five) : Nat := [1, 2, 3, 4].foldl (scanEnergy e) 0

/-- The quantizer step (R123), wrapping at 32 bits. -/
def quantStep (minE : Word) : Word := (minE * 3 + 0x24) >>> 7

/-! ## Unary quotient -/

/-- The start of the unary loop (R124). -/
def unaryStart (e : Five) : UnaryRegs := { acc := 0, cs := quantStep (e.get (energyIndex e)), qc := 7, z := 0 }

/-- What a 0 bit does in the unary loop (R124, R148). -/
def unaryZero (u : UnaryRegs) : UnaryRegs :=
  if u.qc - 1 = 0 then { acc := u.acc + u.cs, cs := u.cs <<< 2, qc := 7, z := u.z + 1 }
  else { acc := u.acc + u.cs, cs := u.cs, qc := u.qc - 1, z := u.z + 1 }

/-- The unary loop (R124, R125) with `n` bits left before the cap: the registers at the stop bit, or none when the cap is met. -/
def unaryLoop (m : Memory 8) : Nat → UnaryRegs → BitReader → Option UnaryRegs × BitReader
  | 0, _, br => (none, br)
  | n + 1, u, br =>
    match readBit m br with
    | (true, br') => (some u, br')
    | (false, br') => unaryLoop m n (unaryZero u) br'

/-! ## Range normalisation, remainder, delta -/

/-- R126: while `cs ≥ r`, double `r` and count; none when `r` collapses to 0 (R127). 32 doublings bring any `r` to 0. -/
def normaliseUp (cs : Word) : Nat → Word → Int → Option (Word × Int)
  | 0, _, _ => none
  | f + 1, r, nb =>
    if r.toNat ≤ cs.toNat then
      if r <<< 1 = 0 then none else normaliseUp cs f (r <<< 1) (nb + 1)
    else some (r, nb)

/-- The loop of R128, with `t` the loop's variable: `r` takes `t`, `t` halves, until `cs ≥ t`. 32 halvings bring any `t` to 0. -/
def normaliseDown (cs : Word) : Nat → Word → Int → Word × Int
  | 0, t, nb => (t, nb)
  | f + 1, t, nb => if (t >>> 1).toNat ≤ cs.toNat then (t, nb - 1) else normaliseDown cs f (t >>> 1) (nb - 1)

/-- Step 4 (R126, R128): the normalised range value and `nb`, or none on range collapse (R127). -/
def normalise (cs rv : Word) (ba : Int) : Option (Word × Int) :=
  if rv.toNat ≤ cs.toNat then normaliseUp cs 33 rv ba else some (normaliseDown cs 33 rv (ba + 1))

/-- Step 5 (R130): the remainder, from `nb` bits and perhaps one more. -/
def readRemainder (m : Memory 8) (cs r : Word) (nb : Int) (br : BitReader) : Word × BitReader :=
  let (ext, br1) := readBits m br nb.toNat
  let co := r - cs
  if ext.toNat < co.toNat then (ext, br1)
  else
    let (x, br2) := readBit m br1
    (co + (ext - co) * 2 + (BitVec.ofBool x).setWidth 32, br2)

/-- The zig-zag map (R98, R131). -/
def zigzag (val : Word) : Word := val ^^^ (-(val &&& 1))

/-- What steps 4 to 6 give: the new range value and bits accumulated (R132) and the signed delta (R131). -/
structure RangeOut where
  rv : Word
  ba : Int
  d : Word
  deriving DecidableEq, Repr

/-- Steps 4 to 6 (R126-R131): none on range collapse (R127), which reads no bit. -/
def rangeDecode (m : Memory 8) (rv : Word) (ba : Int) (u : UnaryRegs) (br : BitReader) : Option RangeOut × BitReader :=
  match normalise u.cs rv ba with
  | none => (none, br)
  | some (r, nb) =>
    let (rem, br') := readRemainder m u.cs r nb br
    (some { rv := r, ba := nb, d := zigzag (u.acc + rem) }, br')

/-! ## The five predictor cases -/

/-- R140: the delta is the new sample. -/
def predictK0 (o : Five) (d : Word) : Five :=
  let s0 := d
  let s1 := d - o.r0
  let s2 := s1 - o.r1
  let s3 := s2 - o.r2
  let s4 := s3 - o.r3
  ⟨s0, s1, s2, s3, s4⟩

/-- R141: the delta is the new first difference. -/
def predictK1 (o : Five) (d : Word) : Five :=
  let s0 := o.r0 + d
  let s1 := d
  let s2 := d - o.r1
  let s3 := s2 - o.r2
  let s4 := s3 - o.r3
  ⟨s0, s1, s2, s3, s4⟩

/-- R142: the delta is the new second difference. -/
def predictK2 (o : Five) (d : Word) : Five :=
  let s1 := o.r1 + d
  let s0 := o.r0 + s1
  let s2 := d
  let s3 := d - o.r2
  let s4 := s3 - o.r3
  ⟨s0, s1, s2, s3, s4⟩

/-- R143: the delta is the new third difference. -/
def predictK3 (o : Five) (d : Word) : Five :=
  let s2 := o.r2 + d
  let s1 := o.r1 + s2
  let s0 := o.r0 + s1
  let s3 := d
  let s4 := d - o.r3
  ⟨s0, s1, s2, s3, s4⟩

/-- R144: the delta is the new fourth difference. -/
def predictK4 (o : Five) (d : Word) : Five :=
  let s3 := o.r3 + d
  let s2 := o.r2 + s3
  let s1 := o.r1 + s2
  let s0 := o.r0 + s1
  let s4 := d
  ⟨s0, s1, s2, s3, s4⟩

/-- The predictor case numbers of R134, by energy index. -/
def caseTable : List Nat := [0, 1, 4, 2, 3]

/-- Step 7 (R134, R135): the update of the predictor case that `CASE[k]` names. -/
def predict (k : Nat) (o : Five) (d : Word) : Five :=
  match caseTable[k]? with
  | some 0 => predictK0 o d
  | some 1 => predictK1 o d
  | some 4 => predictK2 o d
  | some 2 => predictK3 o d
  | _ => predictK4 o d

/-! ## Energy update and output -/

/-- `abs_S` of R145: `S[i]` for a non-negative value, one less than the magnitude for a negative one. -/
def absBiased (x : Word) : Word := x ^^^ (x.sshiftRight 31)

/-- One energy of R145, from its old value and the new predictor register. -/
def energyOne (e x : Word) : Word := e + absBiased x - (e >>> 5)

/-- Step 8 (R145). -/
def energyUpdate (e s : Five) : Five :=
  ⟨energyOne e.r0 s.r0, energyOne e.r1 s.r1, energyOne e.r2 s.r2, energyOne e.r3 s.r3, energyOne e.r4 s.r4⟩

/-- Step 9 (R146): `S[0] >> 1`, truncated to 16 bits. -/
def emitSample (s : Five) : Sample := (s.r0.sshiftRight 1).setWidth 16

/-! ## The sample operation -/

/-- What a sample leaves: the reader, the channel, and the sample unless it failed. -/
structure SampleOut where
  reader : BitReader
  chan : Channel
  out : Option Sample
  deriving DecidableEq, Repr

/-- `fail_sample` (R133): the channel is dead and otherwise as before the sample; the bits read stay consumed. -/
def failSample (ch : Channel) (br : BitReader) : SampleOut :=
  { reader := br, chan := { ch with dead := true }, out := none }

/-- Steps 7 to 9 on the channel whose delta, range value and bits accumulated are known (R132, R134-R146). -/
def completeSample (ch : Channel) (r : RangeOut) (br : BitReader) : SampleOut :=
  let s' := predict (energyIndex ch.e) ch.s r.d
  { reader := br
    chan := { ch with s := s', e := energyUpdate ch.e s', rv := r.rv, ba := r.ba }
    out := some (emitSample s') }

/-- `Sample(c)` on the channel's state (R120-R146). -/
def sample (m : Memory 8) (cap : Nat) (ch : Channel) (br : BitReader) : SampleOut :=
  if ch.dead then failSample ch br
  else
    match unaryLoop m cap (unaryStart ch.e) br with
    | (none, br1) => failSample ch br1
    | (some u, br1) =>
      match rangeDecode m ch.rv ch.ba u br1 with
      | (none, br2) => failSample ch br2
      | (some r, br2) => completeSample ch r br2

/-! ## Commands -/

/-- A sample as `RESULT` shows it (R152): sign-extended to 32 bits. -/
def sampleResult (v : Sample) : Word := v.signExtend 32

/-- CH_DECODE_SAMPLE on a named channel after the command's start (R152). -/
def chDecodeBody (c : Chan) (s : State) : CmdResult :=
  match sample s.inMem s.params.unaryCap (s.chan c) s.br with
  | ⟨br, ch, some v⟩ => .ok { (s.setChan c ch) with br := br, result := sampleResult v }
  | ⟨br, ch, none⟩ => .raised .corrupt { (s.setChan c ch) with br := br }

/-- `CH_INIT c` (R151). -/
def execChInit (c : Byte) (s : State) : Host.Outcome State Fault Refusal :=
  match chanOf c with
  | none => .next (s.beginCommand.raise .badArgument)
  | some ch => .next { (s.beginCommand.setChan ch initChannel) with result := 0 }.finish

/-- `CH_DECODE_SAMPLE c` (R152). A dead channel reads nothing (R121), so only a live one needs its reader's slice in IN. -/
def execChDecodeSample (c : Byte) (s : State) : Host.Outcome State Fault Refusal :=
  match chanOf c with
  | none => .next (s.beginCommand.raise .badArgument)
  | some ch =>
    if (s.chan ch).dead || s.readerOk then .next (endCommand (chDecodeBody ch s.beginCommand))
    else .fault .readerOutsideIn

/-! ## Bitstream symbols and predictor cases, met inside CH_DECODE_SAMPLE -/

/-- `UNARY_ZERO` (R148): on the unary loop in progress. The cap is tested before the next bit is read (R124, R125). -/
def execUnaryZero (s : State) : Host.Outcome State Fault Refusal :=
  match s.work with
  | .unary c u => .next { s with work := .unary c (unaryZero u) }
  | _ => .fault .noUnaryInProgress

/-- `UNARY_STOP` (R149): leave the unary loop; the sample continues at R126. -/
def execUnaryStop (s : State) : Host.Outcome State Fault Refusal :=
  match s.work with
  | .unary c u => .next { s with work := .range c u }
  | _ => .fault .noUnaryInProgress

/-- The predictor step of the sample in progress, by the given update; the sample continues at R145. -/
def predictorStep (update : Five → Word → Five) (s : State) : Host.Outcome State Fault Refusal :=
  match s.work with
  | .predict c d => .next { (s.setChan c { s.chan c with s := update (s.chan c).s d }) with work := .emit c }
  | _ => .fault .noPredictorInProgress

/-- `PRED_K0` (R140). -/
def execPredK0 (s : State) : Host.Outcome State Fault Refusal := predictorStep predictK0 s

/-- `PRED_K1` (R141). -/
def execPredK1 (s : State) : Host.Outcome State Fault Refusal := predictorStep predictK1 s

/-- `PRED_K2` (R142). -/
def execPredK2 (s : State) : Host.Outcome State Fault Refusal := predictorStep predictK2 s

/-- `PRED_K3` (R143). -/
def execPredK3 (s : State) : Host.Outcome State Fault Refusal := predictorStep predictK3 s

/-- `PRED_K4` (R144). -/
def execPredK4 (s : State) : Host.Outcome State Fault Refusal := predictorStep predictK4 s

end Sys2Proof.Machine
end

