-- ==== Sys2Proof/Machine/Stream.lean ====
section
/-! DEFINITION. The DWOP stream decoder (42_dwop_stream.md): the mono and stereo loops, DECODE_MONO and DECODE_STEREO. -/

namespace Sys2Proof.Machine

/-- What a stream loop works on: the reader, both channels and OUT. -/
structure StreamRegs where
  br : BitReader
  ch0 : Channel
  ch1 : Channel
  out : Memory 16
  deriving DecidableEq, Repr

/-- The mono loop (R161) with `k` frames still asked for and `n` done: the count of frames and what the loop leaves. -/
def monoLoop (m : Memory 8) (cap : Nat) : Nat → Nat → StreamRegs → Nat × StreamRegs
  | 0, n, r => (n, r)
  | k + 1, n, r =>
    match sample m cap r.ch0 r.br with
    | ⟨br, ch, none⟩ => (n, { r with br := br, ch0 := ch })
    | ⟨br, ch, some v⟩ => monoLoop m cap k (n + 1) { r with br := br, ch0 := ch, out := memWrite r.out n v }

/-- The right sample of a frame (R162, R167): the left sample plus the delta, truncated to 16 bits. -/
def rightSample (l dl : Sample) : Sample := BitVec.ofInt 16 (l.toInt + dl.toInt)

/-- The stereo loop (R162, R166) with `k` frames still asked for and `n` done. -/
def stereoLoop (m : Memory 8) (cap : Nat) : Nat → Nat → StreamRegs → Nat × StreamRegs
  | 0, n, r => (n, r)
  | k + 1, n, r =>
    match sample m cap r.ch0 r.br with
    | ⟨br, ch0, none⟩ => (n, { r with br := br, ch0 := ch0 })
    | ⟨br, ch0, some l⟩ =>
      match sample m cap r.ch1 br with
      | ⟨br', ch1, none⟩ => (n, { r with br := br', ch0 := ch0, ch1 := ch1 })
      | ⟨br', ch1, some dl⟩ =>
        stereoLoop m cap k (n + 1)
          { br := br', ch0 := ch0, ch1 := ch1,
            out := memWrite (memWrite r.out (2 * n) l) (2 * n + 1) (rightSample l dl) }

/-- `Stream(off, len, ch, N)` (R160, R163): the count of whole frames, and the state with `SHORT` set when it is below `N`. -/
def stream (s : State) (off len ch n : Nat) : Nat × State :=
  let start : StreamRegs := { br := bindReader off len, ch0 := initChannel, ch1 := initChannel, out := s.outMem }
  let (count, r) :=
    if ch = 1 then monoLoop s.inMem s.params.unaryCap n 0 start else stereoLoop s.inMem s.params.unaryCap n 0 start
  let s' := { s with br := r.br, ch0 := r.ch0, ch1 := r.ch1, outMem := r.out }
  (count, if count < n then s'.setShort else s')

/-- A decode command after its start, with `ch` channels (R164, R165): release, check, decode, count. -/
def decodeBody (ch : Nat) (s : State) : CmdResult :=
  let s0 := s.release.clearFlags
  if s0.argSliceOk && s0.argFramesOk ch then
    let (count, s1) := stream s0 s0.argOff.toNat s0.argLen.toNat ch s0.argN.toNat
    .ok { s1 with result := BitVec.ofNat 32 count }
  else .raised .badArgument s0

/-- `DECODE_MONO` (R164). -/
def execDecodeMono (s : State) : Host.Outcome State Fault Refusal := .next (endCommand (decodeBody 1 s.beginCommand))

/-- `DECODE_STEREO` (R165). -/
def execDecodeStereo (s : State) : Host.Outcome State Fault Refusal := .next (endCommand (decodeBody 2 s.beginCommand))

end Sys2Proof.Machine
end

