-- ==== Sys2Proof/Machine/Chunks.lean ====
section
/-! DEFINITION. The chunk walker and the handler of each tag (43_iff_parser.md), with the SDAT step (R224). -/

namespace Sys2Proof.Machine

/-! ## The field extractors -/

/-- `Glob(pl, L)` (R193). -/
def globStep (pl : Nat) (len : Word) (s : State) : State :=
  if len.toNat < 20 then s
  else
    { s with
      barsBeats := memRead s.inMem (pl + 4) 2 ||| (memRead s.inMem (pl + 6) 1 <<< 16)
      timesig := memRead s.inMem (pl + 7) 1 ||| (memRead s.inMem (pl + 8) 1 <<< 8)
      tempoMbpm := memRead s.inMem (pl + 16) 4 }

/-- `Head(pl, L)` (R195). -/
def headStep (pl : Nat) (len : Word) (s : State) : State :=
  if len.toNat < 6 then s else { s with bytesPerSample := memRead s.inMem (pl + 5) 1 }

/-- `Sinf(pl, L)` (R197): the sample rate is taken only when it is not 0. -/
def sinfStep (pl : Nat) (len : Word) (s : State) : State :=
  if len.toNat < 10 then s
  else
    let r := memRead s.inMem (pl + 4) 2
    { s with
      channels := memRead s.inMem pl 1
      sampleRate := if r = 0 then s.sampleRate else r
      totalFrames := memRead s.inMem (pl + 6) 4 }

/-- `Slce(pl, L)` (R199-R201): transient markers are dropped before the cap is tested. -/
def slceStep (pl : Nat) (len : Word) (s : State) : State :=
  if len.toNat < 8 then s
  else
    let off := memRead s.inMem pl 4
    let length := memRead s.inMem (pl + 4) 4
    if length.toNat ≤ 1 then s
    else if s.params.maxSlices ≤ s.slices.length then s
    else { s with slices := s.slices ++ [{ off := off, len := length }] }

/-! ## SDAT -/

/-- The frame count of an SDAT and whether SINF declared it (R224, R226). -/
def framesWanted (s : State) (len : Word) : Nat × Bool :=
  if s.totalFrames = 0 then (frameBound s.params len.toNat, false) else (s.totalFrames.toNat, true)

/-- `SdatStep(pl, L)` (R224-R226). -/
def sdatDecode (pl : Nat) (len : Word) (s : State) : CmdResult :=
  let s1 := s.setDecoded
  let ch := s1.channels
  if ch ≠ 1 ∧ ch ≠ 2 then .raised .corrupt s1
  else
    let s2 := { s1 with decChannels := ch }
    let (n, declared) := framesWanted s2 len
    if s2.params.maxFrames < n then .raised .oversize s2
    else if s2.params.outSize < n * ch.toNat then .raised .outOfMemory s2
    else
      let (count, s3) := stream s2 pl len.toNat ch.toNat n
      if declared ∧ count < n then .raised .corrupt s3
      else .ok { s3 with pcmFrames := BitVec.ofNat 32 count }

/-- `Sdat(pl, L)` (R202): only the first SDAT of a PARSE is decoded. -/
def sdatStep (pl : Nat) (len : Word) (s : State) : CmdResult :=
  if s.status.decoded then .ok s else sdatDecode pl len s

/-! ## The walk -/

/-- What R180 finds at a level's cursor. -/
inductive HeaderAt where
  /-- Fewer than 8 bytes remain (R182). -/
  | levelEnds
  /-- The declared length exceeds the boundary (R183). -/
  | truncated
  /-- A chunk that fits. -/
  | chunk (tag len : Word)
  deriving DecidableEq, Repr

/-- Read the header at a level's cursor and test it against the level's boundary (R181-R183), over the integers. -/
def State.headerAt (s : State) (l : Level) : HeaderAt :=
  if l.stop < l.pos + 8 then .levelEnds
  else if l.stop < l.pos + 8 + (s.lenAt l.pos).toNat then .truncated
  else .chunk (s.tagAt l.pos) (s.lenAt l.pos)

/-- The innermost level returns. -/
def State.popLevel (s : State) : State := { s with walker := s.walker.tail }

/-- A nested level opens over `[start, stop)` (R185). -/
def State.pushLevel (s : State) (start stop : Nat) : State := { s with walker := { pos := start, stop := stop } :: s.walker }

/-- The innermost level's cursor moves past a chunk of length `len` (R187). -/
def State.advance (s : State) (len : Word) : State :=
  match s.walker with
  | [] => s
  | l :: rest => { s with walker := { l with pos := l.pos + chunkSize len } :: rest }

/-- The walk of the innermost level until it returns (R180, R184), nested levels included; its first argument bounds the
passes left and is enough when it exceeds the level's bytes (R190). -/
def walk : Nat → State → CmdResult
  | 0, s => .ok s
  | f + 1, s =>
    match s.walker with
    | [] => .ok s
    | l :: _ =>
      match s.headerAt l with
      | .levelEnds => .ok s.popLevel
      | .truncated => .ok s.popLevel.setTrunc
      | .chunk tag len =>
        let pl := l.pos + 8
        match
          (if tag = tagCat then
            (if 4 ≤ len.toNat then walk f (s.pushLevel (pl + 4) (pl + len.toNat)) else .ok s)
          else if tag = tagGlob then .ok (globStep pl len s)
          else if tag = tagHead then .ok (headStep pl len s)
          else if tag = tagSinf then .ok (sinfStep pl len s)
          else if tag = tagSlce then .ok (slceStep pl len s)
          else if tag = tagSdat then sdatStep pl len s
          else .ok s) with
        | .raised e s' => .raised e s'
        | .ok s' => walk f (s'.advance len)

/-- `Cat(pl, L)` (R191): the nested walk, when there is room for the type identifier. -/
def catStep (pl : Nat) (len : Word) (s : State) : CmdResult :=
  if 4 ≤ len.toNat then walk (len.toNat + 1) (s.pushLevel (pl + 4) (pl + len.toNat)) else .ok s

/-! ## The chunk tags as instructions, met at the cursor of PARSE's walk -/

/-- Run a handler on the payload at the innermost level's cursor, which must lie in IN. -/
def withPayload (len : Word) (s : State) (handler : Nat → State) : Host.Outcome State Fault Refusal :=
  match s.payload? with
  | none => .fault .noChunkInProgress
  | some pl => if pl + len.toNat ≤ s.params.inSize then .next (handler pl) else .fault .chunkOutsideIn

/-- After a handler that may raise: a raise ends the whole PARSE (R188, R230). -/
def afterHandler : CmdResult → State
  | .ok s => s
  | .raised e s => { endParse (.raised e s) with work := .none }

/-- `CAT` (R191). -/
def execCat (len : Word) (s : State) : Host.Outcome State Fault Refusal :=
  withPayload len s fun pl => afterHandler (catStep pl len s)

/-- `GLOB` (R193). -/
def execGlob (len : Word) (s : State) : Host.Outcome State Fault Refusal :=
  withPayload len s fun pl => globStep pl len s

/-- `HEAD` (R195). -/
def execHead (len : Word) (s : State) : Host.Outcome State Fault Refusal :=
  withPayload len s fun pl => headStep pl len s

/-- `SINF` (R197). -/
def execSinf (len : Word) (s : State) : Host.Outcome State Fault Refusal :=
  withPayload len s fun pl => sinfStep pl len s

/-- `SLCE` (R199). -/
def execSlce (len : Word) (s : State) : Host.Outcome State Fault Refusal :=
  withPayload len s fun pl => slceStep pl len s

/-- `SDAT` (R202). -/
def execSdat (len : Word) (s : State) : Host.Outcome State Fault Refusal :=
  withPayload len s fun pl => afterHandler (sdatStep pl len s)

/-- Every other tag (R203): nothing is read and nothing changes. -/
def execUnknownTag (_tag _len : Word) (s : State) : Host.Outcome State Fault Refusal := .next s

end Sys2Proof.Machine
end

