-- ==== Sys2Proof/Machine/Assembler.lean ====
section
/-! DEFINITION. The REX file assembler (44_rex_assembler.md): PARSE and DESTROY. -/

namespace Sys2Proof.Machine

/-- `Clamp(i)` on one slice (R229), over the integers: the offset never changes. -/
def clampSlice (frames : Word) (x : Slice) : Slice :=
  if frames.toNat < x.off.toNat + x.len.toNat then
    (if x.off.toNat < frames.toNat then { x with len := frames - x.off } else { x with len := 0 })
  else x

/-- One full-buffer slice when none was stored (R228). -/
def synthSlices (frames : Word) : List Slice → List Slice
  | [] => [{ off := 0, len := frames }]
  | x :: rest => x :: rest

/-- The slices a PARSE leaves: synthesis (R228), then the clamp of every slice (R229). -/
def finalSlices (frames : Word) (stored : List Slice) : List Slice := (synthSlices frames stored).map (clampSlice frames)

/-- PARSE up to its walk (R221-R223): release, clear, check, set the defaults and open the top level. -/
def parseStart (s : State) : CmdResult :=
  let s0 := { s.release.clearFlags with result := 0 }
  if !s0.inLenOk then .raised .badArgument s0
  else if s0.inLen.toNat < s0.params.minFileBytes then .raised .tooSmall s0
  else if s0.tagAt 0 ≠ tagCat then .raised .notIFF s0
  else .ok { s0 with sampleRate := 44100, channels := 1, walker := [{ pos := 0, stop := s0.inLen.toNat }] }

/-- PARSE after its walk (R227-R229). -/
def parseEnd (s : State) : CmdResult :=
  if s.status.decoded = false ∨ s.pcmFrames = 0 then .raised .noAudio s
  else .ok { s with slices := finalSlices s.pcmFrames s.slices }

/-- PARSE after the command's start (R221). -/
def parseBody (s : State) : CmdResult :=
  match parseStart s with
  | .raised e s' => .raised e s'
  | .ok s1 =>
    match walk (s1.inLen.toNat + 1) s1 with
    | .raised e s' => .raised e s'
    | .ok s2 => parseEnd s2

/-- `PARSE` (R221, R230). -/
def execParse (s : State) : Host.Outcome State Fault Refusal := .next (endParse (parseBody s.beginCommand))

/-- `DESTROY` (R231). -/
def execDestroy (s : State) : Host.Outcome State Fault Refusal :=
  .next { s.beginCommand.release.clearFlags with result := 0 }.finish

end Sys2Proof.Machine
end

