-- ==== Sys2Proof/Machine/Dispatch.lean ====
section
/-! DEFINITION. The meaning of every instruction, one arm each. -/

namespace Sys2Proof.Machine

def exec (i : Instr) (s : State) : Host.Outcome State Fault Refusal :=
  match i with
  | .parse => Sys2Proof.Machine.execParse s
  | .destroy => Sys2Proof.Machine.execDestroy s
  | .decodeMono => Sys2Proof.Machine.execDecodeMono s
  | .decodeStereo => Sys2Proof.Machine.execDecodeStereo s
  | .brInit => Sys2Proof.Machine.execBrInit s
  | .brReadBit => Sys2Proof.Machine.execBrReadBit s
  | .brReadBits n => Sys2Proof.Machine.execBrReadBits n s
  | .chInit c => Sys2Proof.Machine.execChInit c s
  | .chDecodeSample c => Sys2Proof.Machine.execChDecodeSample c s
  | .cat len => Sys2Proof.Machine.execCat len s
  | .glob len => Sys2Proof.Machine.execGlob len s
  | .head len => Sys2Proof.Machine.execHead len s
  | .sinf len => Sys2Proof.Machine.execSinf len s
  | .slce len => Sys2Proof.Machine.execSlce len s
  | .sdat len => Sys2Proof.Machine.execSdat len s
  | .unknownTag tag len => Sys2Proof.Machine.execUnknownTag tag len s
  | .unaryZero => Sys2Proof.Machine.execUnaryZero s
  | .unaryStop => Sys2Proof.Machine.execUnaryStop s
  | .predK0 => Sys2Proof.Machine.execPredK0 s
  | .predK1 => Sys2Proof.Machine.execPredK1 s
  | .predK2 => Sys2Proof.Machine.execPredK2 s
  | .predK3 => Sys2Proof.Machine.execPredK3 s
  | .predK4 => Sys2Proof.Machine.execPredK4 s

end Sys2Proof.Machine
end

