-- ==== Sys2Proof/Machine/Fetch.lean ====
section
/-! DEFINITION. Where the next instruction comes from: the host's next access between commands; the chunk at the walker's
cursor, the next bit or the energy index inside one (log 2, log 4). -/

namespace Sys2Proof.Machine

/-! ## The host's accesses -/

/-- A write of `CMD` (R21, R80): ignored while BUSY (R284); otherwise `CMD` holds the word and its command runs whole, a
reserved or illegal word raising `BadCommand` and changing nothing else (R83, R260). -/
def issueCommand (w : Word) (s : State) : Host.Outcome State Fault Refusal :=
  if s.status.state = .busy then .next s
  else
    match decodeCommand w with
    | .ok i => exec i { s with cmd := w }
    | .error _ => .next (({ s with cmd := w }.beginCommand).raise .badCommand)

/-- One access of the host (R32, R60, R61). While BUSY a write to IN or to an argument register leaves the command's results
unspecified (R284) and is refused; the other accesses read. -/
def hostAccess (a : HostAccess) (s : State) : Host.Outcome State Fault Refusal :=
  match a with
  | .writeIn addr b =>
    if s.params.inSize ≤ addr then .fault .hostOutsideIn
    else if s.status.state = .busy then .refused .writeWhileBusy
    else .next { s with inMem := Memory.write s.inMem addr b }
  | .writeReg off v =>
    if off = 0x000 then issueCommand v s
    else if isArgReg off && s.status.state == .busy then .refused .writeWhileBusy
    else .next (s.writeArgReg off v)
  | .readReg off => .next { s with hostData := s.readReg off }
  | .readOut i =>
    if s.params.outSize ≤ i then .fault .hostOutsideOut
    else .next { s with hostData := (Memory.read s.outMem i).signExtend 32 }

/-- Between commands: the host's next access, or nothing (R266). -/
def hostStep (s : State) : Host.Outcome State Fault Refusal :=
  match s.host with
  | [] => .next s
  | a :: rest => hostAccess a { s with host := rest }

/-- `LOAD IN, <bytes>` (R102): the bytes from offset 0, then `IN_LEN`. -/
def loadIn (bytes : List Byte) : List HostAccess :=
  (bytes.mapIdx fun a b => HostAccess.writeIn a b) ++ [.writeReg 0x008 (BitVec.ofNat 32 bytes.length)]

/-- `CMD <MNEMONIC> [<operand>]` (R102): the write of the command's word, then one POLL of `STATUS`. -/
def hostCommand (i : Instr) : List HostAccess :=
  [.writeReg 0x000 ((encode i).bits.setWidth 32), .readReg 0x004]

/-! ## Inside PARSE's walk -/

/-- After a chunk's instruction (R187): the cursor moves on, unless the chunk ended the PARSE. -/
def afterChunk (len : Word) (o : Host.Outcome State Fault Refusal) : Host.Outcome State Fault Refusal :=
  match o with
  | .next s => .next (if s.work = .walk then s.advance len else s)
  | .fault r => .fault r
  | .refused r => .refused r

/-- The walk is over (R227): the rest of PARSE. -/
def walkEnds (s : State) : State := { endParse (parseEnd s) with work := .none }

/-- One pass of the walk's loop (R180): a level ends, or the chunk at its cursor is decoded and executed. -/
def walkStep (s : State) : Host.Outcome State Fault Refusal :=
  match s.walker with
  | [] => .next (walkEnds s)
  | l :: _ =>
    if s.params.inSize < l.stop then .fault .chunkOutsideIn
    else
      match s.headerAt l with
      | .levelEnds => .next s.popLevel
      | .truncated => .next s.popLevel.setTrunc
      | .chunk tag len => afterChunk len (exec (decodeChunk tag len) s)

/-! ## Inside CH_DECODE_SAMPLE -/

/-- The sample in progress has failed (R133): CH_DECODE_SAMPLE raises `Corrupt` (R152). -/
def sampleFails (c : Chan) (s : State) : State :=
  { (s.setChan c { s.chan c with dead := true }).raise .corrupt with work := .none }

/-- One pass of the unary loop (R124, R125): the cap, or the next bit, consumed, decoded and executed. -/
def unaryStep (c : Chan) (u : UnaryRegs) (s : State) : Host.Outcome State Fault Refusal :=
  if s.params.unaryCap ≤ u.z then .next (sampleFails c s)
  else if s.readerOk then
    match readBit s.inMem s.br with
    | (b, br) => exec (decodeUnaryBit b) { s with br := br }
  else .fault .readerOutsideIn

/-- After the unary loop (R126-R132): range normalisation, remainder and delta, with `rv` and `ba` committed. -/
def rangeStep (c : Chan) (u : UnaryRegs) (s : State) : Host.Outcome State Fault Refusal :=
  if s.readerOk then
    match rangeDecode s.inMem (s.chan c).rv (s.chan c).ba u s.br with
    | (none, br) => .next (sampleFails c { s with br := br })
    | (some r, br) =>
      .next { (s.setChan c { s.chan c with rv := r.rv, ba := r.ba }) with br := br, work := .predict c r.d }
  else .fault .readerOutsideIn

/-- The predictor case (R134): the energy index of the channel, decoded and executed. -/
def predictStep (c : Chan) (s : State) : Host.Outcome State Fault Refusal :=
  match decodePredIndex (BitVec.ofNat 3 (energyIndex (s.chan c).e)) with
  | .ok i => exec i s
  | .error _ => .fault .noPredictorInProgress

/-- The end of the sample and of CH_DECODE_SAMPLE (R145, R146, R152). -/
def emitStep (c : Chan) (s : State) : State :=
  let ch := s.chan c
  { (s.setChan c { ch with e := energyUpdate ch.e ch.s }) with
    result := sampleResult (emitSample ch.s), work := .none }.finish

/-! ## Placing an instruction where the next step fetches it -/

/-- Energies whose least index of the minimum is `k` (R122). -/
def energiesFor (k : Nat) : Five :=
  ⟨if k = 0 then 0 else 1, if k = 1 then 0 else 1, if k = 2 then 0 else 1, if k = 3 then 0 else 1, if k = 4 then 0 else 1⟩

/-- The predictor index of a predictor case. -/
def predCode (i : Instr) : Nat := (encode i).bits.toNat

/-- The state in which the next step fetches and runs the instruction (log 4, log 8). A command word is the host's next
access. A chunk is an 8-byte file whose walk PARSE has just begun. A unary bit is the first bit of a one-byte slice under a
CH_DECODE_SAMPLE of channel 0. A predictor case is that command's predictor step, with energies that select it. -/
def placeInstr (i : Instr) (s : State) : State :=
  let code := encode i
  match code.format with
  | .command =>
    { (if s.status.state = .busy then s.setCmdState .idle else s) with
      work := .none, host := .writeReg 0x000 (code.bits.setWidth 32) :: s.host }
  | .chunk =>
    let bytes := (List.range 8).map fun j => code.bits.extractLsb' (8 * (7 - j)) 8
    let length := chunkSize (code.bits.setWidth 32)
    { s.setCmdState .busy with
      cmd := 1, inLen := BitVec.ofNat 32 length, work := .walk, walker := [{ pos := 0, stop := length }]
      inMem := bytes.zipIdx.foldl (fun m p => Memory.write m p.2 p.1) s.inMem }
  | .unaryBit =>
    { s.setCmdState .busy with
      cmd := 0x21, br := { base := 0, len := 1, pos := 0 }, work := .unary .c0 (unaryStart s.ch0.e)
      inMem := Memory.write s.inMem 0 (code.bits.setWidth 8 <<< 7) }
  | .predIndex =>
    { s.setCmdState .busy with
      cmd := 0x21, work := .predict .c0 0, ch0 := { s.ch0 with e := energiesFor (predCode i) } }

end Sys2Proof.Machine
end

