-- ==== Sys2Proof/Machine/Step.lean ====
section
/-! DEFINITION. One step: the host's next access, which performs a whole command when it writes `CMD` (R5); or, from a state inside
a command, the next instruction of that command (log 4). -/

namespace Sys2Proof.Machine

/-- One step of the machine. From every state a run reaches, `work` is `none` and the step is the host's next access. -/
def step (s : State) : Host.Outcome State Fault Refusal :=
  match s.work with
  | .none => hostStep s
  | .walk => walkStep s
  | .unary c u => unaryStep c u s
  | .range c u => rangeStep c u s
  | .predict c _ => predictStep c s
  | .emit c => .next (emitStep c s)

/-- The state whose next step runs the instruction of a table word (`placeInstr`); a word that is no instruction is written to `CMD`. -/
def State.withFetchWord (s : State) (nbits w : Nat) : State :=
  match decodeTableWord nbits w with
  | some i => placeInstr i s
  | none => { s with host := .writeReg 0x000 (BitVec.ofNat 32 w) :: s.host }

end Sys2Proof.Machine
end

