-- ==== Sys2Proof/Safety.lean ====
section
/-! DEFINITION. What counts as a good state between two host accesses, and as a safe step. -/

namespace Sys2Proof.Machine

/-- Every register is even: the doubled representation of the predictor registers (R36). -/
abbrev Five.Even (f : Five) : Prop :=
  f.r0.getLsbD 0 = false ∧ f.r1.getLsbD 0 = false ∧ f.r2.getLsbD 0 = false ∧ f.r3.getLsbD 0 = false ∧
    f.r4.getLsbD 0 = false

/-- A channel state the rules can reach (R36, R38): `rv = 2^(ba+1)`, `-1 ≤ ba ≤ 30`, predictor registers even. -/
abbrev Channel.Good (ch : Channel) : Prop :=
  (-1 ≤ ch.ba ∧ ch.ba ≤ 30) ∧ ch.rv = BitVec.ofNat 32 (2 ^ (ch.ba + 1).toNat) ∧ ch.s.Even

/-- The fields R28 does not list read as 0. -/
abbrev State.MetaGood (s : State) : Prop :=
  s.decChannels.toNat ≤ 2 ∧ s.sampleRate.toNat < 2 ^ 16 ∧ s.channels.toNat < 2 ^ 8 ∧ s.bytesPerSample.toNat < 2 ^ 8 ∧
    s.timesig.toNat < 2 ^ 16 ∧ s.barsBeats.toNat < 2 ^ 24

/-- A slice that ends inside the PCM when it starts inside it, and else is empty (R29, R229). -/
abbrev Slice.Clamped (frames : Word) (x : Slice) : Prop :=
  if x.off.toNat ≤ frames.toNat then x.off.toNat + x.len.toNat ≤ frames.toNat else x.len = 0

/-- The slice table between commands (R29). -/
abbrev State.SlicesGood (s : State) : Prop :=
  s.slices.length ≤ s.params.maxSlices ∧ ∀ x ∈ s.slices, x.Clamped s.pcmFrames

/-- The codes `STATUS.ERR` can hold (R251, R252, R255): 0, or the code of a kind that is raised. -/
abbrev errCodes : List (BitVec 8) := [0, 1, 2, 4, 5, 6, 7, 8, 9]

/-- `STATUS` between commands (R23, R251): never BUSY, and an error code exactly after an error. -/
abbrev Status.Good (t : Status) : Prop :=
  t.state ≠ .busy ∧ t.err ∈ errCodes ∧ (t.state = .error ↔ t.err ≠ 0)

/-- The two memories: canonical, and nothing listed past the end of the space (R60, R61, R71). -/
abbrev State.MemoryGood (s : State) : Prop :=
  (Memory.wf s.inMem ∧ ∀ c ∈ s.inMem, c.1 < s.params.inSize) ∧ (Memory.wf s.outMem ∧ ∀ c ∈ s.outMem, c.1 < s.params.outSize)

/-- The invariant of the machine between two host accesses. -/
abbrev State.Good (s : State) : Prop :=
  s.params.Valid ∧ s.work = .none ∧ s.walker = [] ∧ s.status.Good ∧ s.MetaGood ∧ s.SlicesGood ∧
    s.pcmFrames.toNat * s.decChannels.toNat ≤ s.params.outSize ∧ s.MemoryGood ∧ s.readerOk = true ∧
    s.ch0.Good ∧ s.ch1.Good

/-- The host's next access names an address that exists (R60, R61). -/
def State.nextAccessExists (s : State) : Bool :=
  match s.host with
  | .writeIn a _ :: _ => decide (a < s.params.inSize)
  | .readOut i :: _ => decide (i < s.params.outSize)
  | _ => true

/-- The IN offsets a command may read: those below `IN_LEN` (R63) and those of the bound slice (R111), inside IN (R71). -/
abbrev State.MayRead (s : State) (a : Nat) : Prop :=
  a < s.params.inSize ∧ (a < s.inLen.toNat ∨ (s.br.base ≤ a ∧ a < s.br.base + s.br.len))

/-- A safe step: it answers a next state, leaves every slot past the end of OUT as it was, and reads IN only where a command
may: unless the host itself writes IN, from any other IN that agrees there it answers the same, that IN kept. -/
def State.StepsSafely (s : State) : Prop :=
  ∃ t, step s = .next t ∧ (∀ i, s.params.outSize ≤ i → Memory.read t.outMem i = Memory.read s.outMem i) ∧
    ((∀ a b rest, s.host ≠ .writeIn a b :: rest) →
      ∀ m : Memory 8, (∀ a, s.MayRead a → Memory.read m a = Memory.read s.inMem a) →
        step { s with inMem := m } = .next { t with inMem := m })

end Sys2Proof.Machine
end

