-- ==== Sys2Proof/WellFormed.lean ====
section
/-! DEFINITION. When a term of `Instr` is an instruction: an unknown chunk's tag is none of the recognized ones (R87). -/

namespace Sys2Proof

/-- Operand bytes and lengths may hold any value (R82, R84); an unknown tag must not be a recognized one (R87). -/
def Instr.wellFormed : Instr → Bool
  | .unknownTag tag _ => !knownTags.contains tag
  | .parse | .destroy | .decodeMono | .decodeStereo | .brInit | .brReadBit => true
  | .brReadBits _ | .chInit _ | .chDecodeSample _ => true
  | .cat _ | .glob _ | .head _ | .sinf _ | .slce _ | .sdat _ => true
  | .unaryZero | .unaryStop => true
  | .predK0 | .predK1 | .predK2 | .predK3 | .predK4 => true

end Sys2Proof
end

