-- ==== Sys2Proof/Certificates/Slice0/Obligations.lean ====
section
/-! DEFINITION. The statements for the provers, and the plain arithmetic they are said in. -/

open Sys2Proof Sys2Proof.Machine

namespace Sys2Proof.Claims

/-- `bit(t)` of R116: bit `7 - (t AND 7)` of `IN[BR.base + (t >> 3)]` inside the slice, and 0 past its end. -/
def bitAt (m : Memory 8) (br : BitReader) (t : Nat) : Bool :=
  if t / 8 < br.len then (Memory.read m (br.base + t / 8)).getLsbD (7 - t % 8) else false

/-- The number `bit(q) ‖ … ‖ bit(q+n-1)`. -/
def bitsValue (m : Memory 8) (br : BitReader) (q : Nat) : Nat → Nat
  | 0 => 0
  | n + 1 => 2 * bitsValue m br q n + (bitAt m br (q + n)).toNat

/-- The byte of IN at an offset, as a number. -/
def byteAt (s : State) (a : Nat) : Nat := (Memory.read s.inMem a).toNat

/-- Two bytes of IN as a big-endian number. -/
def half (s : State) (a : Nat) : Nat := 256 * byteAt s a + byteAt s (a + 1)

/-- Four bytes of IN as a big-endian number. -/
def quad (s : State) (a : Nat) : Nat := 65536 * half s a + half s (a + 2)

/-- `STATUS` after a command that ended without an error. -/
def doneStatus (t : Status) : Status := { t with state := .done, err := 0 }

/-- `STATUS` after a command that raised the error of a code. -/
def errorStatus (t : Status) (code : BitVec 8) : Status := { t with state := .error, err := code }

/-- `STATUS` with the three flags clear, as a failing pre-check leaves it. -/
def clearError (code : BitVec 8) : Status := { state := .error, trunc := false, short := false, decoded := false, err := code }

/-- The reader moved on by `n` bits. -/
def readOn (br : BitReader) (n : Nat) : BitReader := { br with pos := br.pos + n }

/-- The least of the five energies. -/
def minEnergy (e : Five) : Nat :=
  min e.r0.toNat (min e.r1.toNat (min e.r2.toNat (min e.r3.toNat e.r4.toNat)))

/-- The quantizer step of R123. -/
def stepOf (e : Five) : Nat := ((minEnergy e * 3) % 2 ^ 32 + 36) % 2 ^ 32 / 128

/-- The quotient part after `z` zero bits (R96). -/
def accOf (step z : Nat) : Nat := (∑ j ∈ Finset.range z, step * 4 ^ (j / 7)) % 2 ^ 32

/-- The divisor after `z` zero bits (R96). -/
def csOf (step z : Nat) : Nat := step * 4 ^ (z / 7) % 2 ^ 32

/-- The bits of the remainder part: the `nb` with `2^nb ≤ cs < 2^(nb+1)`, and -1 for `cs = 0` (R128, R129). -/
def nbOf (cs : Nat) : Int := if cs = 0 then -1 else Nat.log 2 cs

/-- The range value `2^(nb+1)` (R129). -/
def rangeOf (cs : Nat) : Nat := 2 ^ (nbOf cs + 1).toNat

/-- The truncated binary remainder (R97): `ext` when it is below `co`, else one more bit. -/
def remOf (co ext x : Nat) : Nat := if ext < co then ext else co + (ext - co) * 2 + x

/-- The zig-zag map (R98). -/
def deltaOf (val : Word) : Word := if val.toNat % 2 = 0 then val else -(val + 1)

/-- The new predictor register `j` of the case with energy index `k` (R147, its sums written out). -/
def predOf (k : Nat) (o : Five) (d : Word) (j : Nat) : Word :=
  d + ∑ i ∈ Finset.Ico j k, o.get i - ∑ i ∈ Finset.Ico k j, o.get i

/-- Five registers by index. -/
def fiveOf (f : Nat → Word) : Five := ⟨f 0, f 1, f 2, f 3, f 4⟩

/-- `abs_S` of R145. -/
def biasedAbs (x : Word) : Int := if x.toInt < 0 then -x.toInt - 1 else x.toInt

/-- The new energy of R145. -/
def energyOf (e x : Word) : Word := BitVec.ofInt 32 (e.toNat + biasedAbs x - e.toNat / 32)

/-- `k` is the least index at which the energies take their minimum (R122). -/
def IsLeastIndex (e : Five) (k : Nat) : Prop :=
  k < 5 ∧ (∀ i < 5, (e.get k).toNat ≤ (e.get i).toNat) ∧ ∀ i < k, (e.get k).toNat < (e.get i).toNat

/-- The predictor registers and energies of a channel after a sample with delta `d` and energy index `k`. -/
def channelAfter (ch : Channel) (k : Nat) (d : Word) (rv : Nat) (ba : Int) : Channel :=
  let s' := fiveOf (predOf k ch.s d)
  { s := s', e := fiveOf fun i => energyOf (ch.e.get i) (s'.get i), rv := BitVec.ofNat 32 rv, ba := ba, dead := false }

/-- The sample of a predictor register (R146): its half, rounded down, as 16 bits, sign-extended. -/
def sampleOf (s0 : Word) : Word := BitVec.ofInt 32 (Int.bmod (s0.toInt / 2) (2 ^ 16))

/-- The samples of a mono stream of at most `n` frames, with the reader and channel it leaves (R161). -/
def monoRun (m : Memory 8) (cap : Nat) : Nat → BitReader → Channel → List Sample × BitReader × Channel
  | 0, br, ch => ([], br, ch)
  | n + 1, br, ch =>
    match sample m cap ch br with
    | ⟨br', ch', none⟩ => ([], br', ch')
    | ⟨br', ch', some v⟩ => (v :: (monoRun m cap n br' ch').1, (monoRun m cap n br' ch').2)

/-- The left samples and right deltas of a stereo stream of at most `n` frames (R162, R166). -/
def stereoRun (m : Memory 8) (cap : Nat) :
    Nat → BitReader → Channel → Channel → List (Sample × Sample) × BitReader × Channel × Channel
  | 0, br, c0, c1 => ([], br, c0, c1)
  | n + 1, br, c0, c1 =>
    match sample m cap c0 br with
    | ⟨br1, c0', none⟩ => ([], br1, c0', c1)
    | ⟨br1, c0', some l⟩ =>
      match sample m cap c1 br1 with
      | ⟨br2, c1', none⟩ => ([], br2, c0', c1')
      | ⟨br2, c1', some d⟩ =>
        ((l, d) :: (stereoRun m cap n br2 c0' c1').1, (stereoRun m cap n br2 c0' c1').2)

/-- OUT holds these mono frames from slot 0, and elsewhere what it held (R169). -/
def HoldsMono (old new : Memory 16) (l : List Sample) : Prop :=
  ∀ i, Memory.read new i = (l[i]?).getD (Memory.read old i)

/-- OUT holds these stereo frames from slot 0, left sample then left plus delta, and elsewhere what it held (R167, R169). -/
def HoldsStereo (old new : Memory 16) (l : List (Sample × Sample)) : Prop :=
  ∀ i, Memory.read new i =
    match l[i / 2]? with
    | none => Memory.read old i
    | some f => if i % 2 = 0 then f.1 else f.1 + f.2

/-- The run of a mono stream over a slice (R160). -/
def monoOf (s : State) (off len n : Nat) : List Sample × BitReader × Channel :=
  monoRun s.inMem s.params.unaryCap n { base := off, len := len, pos := 0 } Channel.initial

/-- The run of a stereo stream over a slice (R160). -/
def stereoOf (s : State) (off len n : Nat) : List (Sample × Sample) × BitReader × Channel × Channel :=
  stereoRun s.inMem s.params.unaryCap n { base := off, len := len, pos := 0 } Channel.initial Channel.initial

/-- The frames an SDAT asks for (R226). -/
def framesOf (s : State) (len : Word) : Nat :=
  if s.totalFrames = 0 then frameBound s.params len.toNat else s.totalFrames.toNat

/-- The walker stands at a chunk of length `len` whose payload, at `pl`, lies in IN. -/
def AtChunk (s : State) (len : Word) (pl : Nat) : Prop :=
  (∃ l rest, s.walker = l :: rest ∧ pl = l.pos + 8) ∧ pl + len.toNat ≤ s.params.inSize

/-- The command instructions (R81). -/
def isCommand : Instr → Bool
  | .parse | .destroy | .decodeMono | .decodeStereo | .brInit | .brReadBit => true
  | .brReadBits _ | .chInit _ | .chDecodeSample _ => true
  | _ => false

/-- The instructions that run a stream, by themselves or through an SDAT they walk to. -/
def runsStream : Instr → Bool
  | .parse | .decodeMono | .decodeStereo | .cat _ | .sdat _ => true
  | _ => false

/-- The opcodes of R81 whose `OPD` must be 0. -/
def noOperandOpcodes : List (BitVec 8) := [0x01, 0x02, 0x03, 0x04, 0x10, 0x11]

/-- The opcodes of R81 with an operand. -/
def operandOpcodes : List (BitVec 8) := [0x12, 0x20, 0x21]

/-- A reserved or illegal command word (R83). -/
def IllegalWord (w : Word) : Prop :=
  w.extractLsb' 16 16 ≠ 0 ∨ w.extractLsb' 0 8 ∉ noOperandOpcodes ++ operandOpcodes ∨
    (w.extractLsb' 0 8 ∈ noOperandOpcodes ∧ w.extractLsb' 8 8 ≠ 0)

/-- The RW registers (R20) but `CMD`. -/
def argOffsets : List Nat := [0x008, 0x00C, 0x010, 0x014]

/-- The offsets at which R20 maps no register. -/
def Unmapped (s : State) (off : Nat) : Prop :=
  off % 4 ≠ 0 ∨ (0x044 ≤ off ∧ off < 0x100) ∨ 0x100 + 8 * s.params.maxSlices ≤ off

/-- The registers a PARSE leaves: `STATUS`, `RESULT`, the metadata registers and the slice table. -/
def SameResults (s t : State) : Prop :=
  s.status = t.status ∧ s.result = t.result ∧ s.pcmFrames = t.pcmFrames ∧ s.decChannels = t.decChannels ∧
    s.sampleRate = t.sampleRate ∧ s.channels = t.channels ∧ s.bytesPerSample = t.bytesPerSample ∧
    s.tempoMbpm = t.tempoMbpm ∧ s.timesig = t.timesig ∧ s.barsBeats = t.barsBeats ∧ s.totalFrames = t.totalFrames ∧
    s.slices = t.slices

/-- The released state (R45). -/
def Released (t : State) : Prop :=
  t.pcmFrames = 0 ∧ t.decChannels = 0 ∧ t.sampleRate = 0 ∧ t.channels = 0 ∧ t.bytesPerSample = 0 ∧ t.tempoMbpm = 0 ∧
    t.timesig = 0 ∧ t.barsBeats = 0 ∧ t.totalFrames = 0 ∧ t.slices = []

/-- The metadata registers and the slice table are the same (R28, R29). -/
def SameMetadata (s t : State) : Prop :=
  s.pcmFrames = t.pcmFrames ∧ s.decChannels = t.decChannels ∧ s.sampleRate = t.sampleRate ∧ s.channels = t.channels ∧
    s.bytesPerSample = t.bytesPerSample ∧ s.tempoMbpm = t.tempoMbpm ∧ s.timesig = t.timesig ∧
    s.barsBeats = t.barsBeats ∧ s.totalFrames = t.totalFrames ∧ s.slices = t.slices

/-- What the host owns: the parameters, `CMD`, the argument registers, IN, and the host's side of the interface. -/
def SameInputs (s t : State) : Prop :=
  s.params = t.params ∧ s.cmd = t.cmd ∧ s.inLen = t.inLen ∧ s.argOff = t.argOff ∧ s.argLen = t.argLen ∧
    s.argN = t.argN ∧ s.inMem = t.inMem ∧ s.host = t.host ∧ s.hostData = t.hostData

end Sys2Proof.Claims

open Sys2Proof.Claims

/-! ## Reset and the host's registers -/

/-- R280: after reset a host read of any register gives 0, the reader is bound to an empty slice, both channels are initial and
the walker's stack is empty. -/
def Obligations.ResetStateAsStated : Prop :=
  (∀ off, State.reset.readReg off = 0) ∧ State.reset.status.word = 0 ∧
    State.reset.br = { base := 0, len := 0, pos := 0 } ∧
    State.reset.ch0 = { s := ⟨0, 0, 0, 0, 0⟩, e := ⟨2560, 2560, 2560, 2560, 2560⟩, rv := 2, ba := 0, dead := false } ∧
    State.reset.ch1 = State.reset.ch0 ∧ State.reset.walker = []

/-- The state after reset meets the invariant (the parameters at reset are the model's choice, log 1). -/
def Obligations.ResetIsGood : Prop := State.reset.Good

/-- R20, R22, R28, R29, R32: what each REG offset reads as: the stored registers, `STATUS` packed as R22 lists its fields with
reserved bits 0, the slice table's valid entries and 0 past them, and 0 at every unmapped offset. That an offset which is not a
multiple of 4 counts as unmapped is DEDUCED (log 10). -/
def Obligations.RegisterMapReads : Prop :=
  ∀ s : State,
    (s.readReg 0x000 = s.cmd ∧ s.readReg 0x008 = s.inLen ∧ s.readReg 0x00C = s.argOff ∧ s.readReg 0x010 = s.argLen ∧
      s.readReg 0x014 = s.argN ∧ s.readReg 0x018 = s.result ∧ s.readReg 0x01C = s.pcmFrames ∧
      s.readReg 0x020 = s.decChannels ∧ s.readReg 0x024 = s.sampleRate ∧ s.readReg 0x028 = s.channels ∧
      s.readReg 0x02C = s.bytesPerSample ∧ s.readReg 0x030 = s.tempoMbpm ∧ s.readReg 0x034 = s.timesig ∧
      s.readReg 0x038 = s.barsBeats ∧ s.readReg 0x03C = s.totalFrames ∧
      s.readReg 0x040 = BitVec.ofNat 32 s.slices.length) ∧
    (s.readReg 0x004).toNat =
      s.status.state.bits.toNat + 4 * s.status.trunc.toNat + 8 * s.status.short.toNat + 16 * s.status.decoded.toNat +
        256 * s.status.err.toNat ∧
    (∀ i < s.params.maxSlices,
      s.readReg (0x100 + 8 * i) = ((s.slices[i]?).map Slice.off).getD 0 ∧
      s.readReg (0x104 + 8 * i) = ((s.slices[i]?).map Slice.len).getD 0) ∧
    ∀ off, Unmapped s off → s.readReg off = 0

/-- R20, R21, R32, R284: a host read of REG changes nothing but the value returned, and returns 0 at an unmapped offset; a write
to an RW register other than `CMD` sets it and no other register; a write to an RO register or an unmapped offset has no
effect; a write to `CMD` while BUSY has none either. That an offset which is not a multiple of 4 counts as unmapped is DEDUCED
(log 10). -/
def Obligations.HostAccessesRegisters : Prop :=
  (∀ s off rest, s.work = .none → s.host = .readReg off :: rest →
    step s = .next { s with host := rest, hostData := s.readReg off } ∧ (Unmapped s off → s.readReg off = 0)) ∧
  (∀ s off v rest, s.work = .none → s.status.state ≠ .busy → s.host = .writeReg off v :: rest → off ∈ argOffsets →
    ∃ t, step s = .next t ∧ t.readReg off = v ∧ (∀ off', off' ≠ off → t.readReg off' = s.readReg off') ∧
      t = { s with host := rest, inLen := t.inLen, argOff := t.argOff, argLen := t.argLen, argN := t.argN }) ∧
  (∀ s off v rest, s.work = .none → s.host = .writeReg off v :: rest → off ≠ 0 → off ∉ argOffsets →
    step s = .next { s with host := rest }) ∧
  (∀ s v rest, s.work = .none → s.status.state = .busy → s.host = .writeReg 0 v :: rest →
    step s = .next { s with host := rest })

/-- R102, R60: LOAD IN, step by step, leaves the bytes in IN from offset 0 and their count in `IN_LEN`, and changes nothing
else. -/
def Obligations.LoadInStoresBytes : Prop :=
  ∀ (s : State) (bytes : List Byte) (rest : List HostAccess), s.work = .none → s.status.state ≠ .busy →
    Memory.wf s.inMem → s.host = loadIn bytes ++ rest → bytes.length ≤ s.params.inSize →
    ∃ mem, Host.Core.run Sys2Proof.core (bytes.length + 1) s =
        .next { s with host := rest, inMem := mem, inLen := BitVec.ofNat 32 bytes.length } ∧
      ∀ a, Memory.read mem a = (bytes[a]?).getD (Memory.read s.inMem a)

/-- R60, R61, R64: a host write of IN sets that byte and no other; a host read of OUT returns the slot as `sext_16` and changes
nothing else. An access past the end of IN or OUT stops the machine by name: the model's choice (log 6), the spec giving it no
effect. -/
def Obligations.HostAccessesInAndOut : Prop :=
  (∀ s a b rest, s.work = .none → s.status.state ≠ .busy → s.host = .writeIn a b :: rest → a < s.params.inSize →
    Memory.wf s.inMem →
    ∃ mem, step s = .next { s with host := rest, inMem := mem } ∧ Memory.read mem a = b ∧
      ∀ a', a' ≠ a → Memory.read mem a' = Memory.read s.inMem a') ∧
  (∀ s i rest, s.work = .none → s.host = .readOut i :: rest → i < s.params.outSize →
    step s = .next { s with host := rest, hostData := BitVec.ofInt 32 (Memory.read s.outMem i).toInt }) ∧
  (∀ s a b rest, s.work = .none → s.host = .writeIn a b :: rest → s.params.inSize ≤ a →
    step s = .fault .hostOutsideIn) ∧
  (∀ s i rest, s.work = .none → s.host = .readOut i :: rest → s.params.outSize ≤ i →
    step s = .fault .hostOutsideOut)

/-! ## Decoding and the step -/

/-- R81: the encoded words of the commands. -/
def Obligations.CommandWordsDecode : Prop :=
  decodeCommand 0x00000001 = .ok .parse ∧ decodeCommand 0x00000002 = .ok .destroy ∧
    decodeCommand 0x00000003 = .ok .decodeMono ∧ decodeCommand 0x00000004 = .ok .decodeStereo ∧
    decodeCommand 0x00000010 = .ok .brInit ∧ decodeCommand 0x00000011 = .ok .brReadBit ∧
    decodeCommand 0x00002012 = .ok (.brReadBits 32) ∧ decodeCommand 0x00000120 = .ok (.chInit 1) ∧
    decodeCommand 0x0000FF21 = .ok (.chDecodeSample 0xFF) ∧
    decodeHeaderBytes [0x43, 0x41, 0x54, 0x20, 0x00, 0x00, 0x00, 0x32] = .ok (.cat 50, []) ∧
    decodeHeaderBytes [0x53, 0x49, 0x4E, 0x46, 0x00, 0x00, 0x00, 0x0A, 0x01] = .ok (.sinf 10, [0x01])

/-- Decoding an encoded well-formed instruction gives it back, every operand at every value. -/
def Obligations.DecodeInvertsEncode : Prop := ∀ i : Instr, i.wellFormed = true → decode (encode i) = .ok i

/-- A code that decodes is the encoding of a well-formed instruction: each code has one meaning and no bit is ignored. -/
def Obligations.EncodeInvertsDecode : Prop :=
  ∀ (c : Code) (i : Instr), decode c = .ok i → encode i = c ∧ i.wellFormed = true

/-- R83, R260: an illegal word changes `CMD` and `STATUS` and nothing else, and raises `BadCommand`; every other word decodes. -/
def Obligations.IllegalWordRaisesBadCommand : Prop :=
  (∀ s w rest, s.work = .none → s.status.state ≠ .busy → s.host = .writeReg 0 w :: rest → IllegalWord w →
    step s = .next { s with host := rest, cmd := w, status := errorStatus s.status 8 }) ∧
  (∀ w, ¬ IllegalWord w → ∃ i, decodeCommand w = .ok i ∧ isCommand i = true)

/-- R80: a host write of a command word that decodes runs that instruction, with `CMD` holding the word. -/
def Obligations.StepRunsCommandWord : Prop :=
  ∀ s w i rest, s.work = .none → s.status.state ≠ .busy → s.host = .writeReg 0 w :: rest → decodeCommand w = .ok i →
    step s = exec i { s with host := rest, cmd := w }

/-- R180, R187: inside a walk, the header at the innermost cursor decodes to the chunk's instruction, which the step runs and
then moves the cursor past the chunk unless the chunk ended the PARSE. -/
def Obligations.StepRunsChunk : Prop :=
  ∀ (s : State) (l : Level) (rest : List Level) (i : Instr) (len : Word), s.work = .walk → s.walker = l :: rest →
    l.stop ≤ s.params.inSize → len = BitVec.ofNat 32 (quad s (l.pos + 4)) → l.pos + 8 + len.toNat ≤ l.stop →
    decodeHeaderBytes ((List.range 8).map fun j => Memory.read s.inMem (l.pos + j)) = .ok (i, []) →
    (∀ t, exec i s = .next t → t.work = .walk → step s = .next (t.advance len)) ∧
    (∀ t, exec i s = .next t → t.work ≠ .walk → step s = .next t)

/-- R124, R99: inside a sample, the next bit decodes to a unary bit and the least energy index to a predictor case, which the
step runs, the bit consumed. -/
def Obligations.StepRunsSampleSymbols : Prop :=
  (∀ (s : State) (c : Chan) (u : UnaryRegs), s.work = .unary c u → u.z < s.params.unaryCap → s.readerOk = true →
    step s = exec (if bitAt s.inMem s.br s.br.pos then .unaryStop else .unaryZero) { s with br := readOn s.br 1 }) ∧
  (∀ (s : State) (c : Chan) (d : Word) (k : Nat) (i : Instr), s.work = .predict c d → IsLeastIndex (s.chan c).e k →
    decodePredIndex (BitVec.ofNat 3 k) = .ok i → step s = exec i s)

/-! ## The bit reader -/

/-- R116: after `read_bits(n)` the position has grown by `n`, the value is the bits at the position, and it depends on the
slice's bytes alone. -/
def Obligations.ReadBitsValue : Prop :=
  ∀ (m : Memory 8) (br : BitReader) (n : Nat), n ≤ 32 →
    (readBits m br n).2 = readOn br n ∧ (readBits m br n).1 = BitVec.ofNat 32 (bitsValue m br br.pos n) ∧
      ∀ m' : Memory 8, (∀ a, br.base ≤ a → a < br.base + br.len → Memory.read m' a = Memory.read m a) →
        (readBits m' br n).1 = (readBits m br n).1

/-- R113: BR_INIT binds the argument slice when it lies in `IN[0 .. IN_LEN-1]`, and else raises `BadArgument`; nothing else
changes. -/
def Obligations.BrInitBindsSlice : Prop :=
  ∀ s : State,
    (s.inLen.toNat ≤ s.params.inSize → s.argOff.toNat + s.argLen.toNat ≤ s.inLen.toNat →
      exec .brInit s = .next { s with
        br := { base := s.argOff.toNat, len := s.argLen.toNat, pos := 0 }, result := 0, status := doneStatus s.status }) ∧
    (s.params.inSize < s.inLen.toNat ∨ s.inLen.toNat < s.argOff.toNat + s.argLen.toNat →
      exec .brInit s = .next { s with status := errorStatus s.status 9 })

/-- R114: BR_READ_BIT returns the bit at the position, 0 past the end, and moves on by one; nothing else changes. -/
def Obligations.BrReadBitReturnsBit : Prop :=
  ∀ s : State, s.readerOk = true →
    exec .brReadBit s = .next { s with
      br := readOn s.br 1, result := (if bitAt s.inMem s.br s.br.pos then 1 else 0), status := doneStatus s.status }

/-- R115: BR_READ_BITS returns the next `n ≤ 32` bits and moves on by `n`; nothing else changes. A count above 32 raises
`BadArgument` and reads nothing. -/
def Obligations.BrReadBitsReturnsValue : Prop :=
  ∀ (s : State) (n : Byte),
    (n.toNat ≤ 32 → s.readerOk = true →
      exec (.brReadBits n) s = .next { s with
        br := readOn s.br n.toNat, result := BitVec.ofNat 32 (bitsValue s.inMem s.br s.br.pos n.toNat)
        status := doneStatus s.status }) ∧
    (32 < n.toNat → exec (.brReadBits n) s = .next { s with status := errorStatus s.status 9 })

/-! ## The channel decoder -/

/-- R151: CH_INIT puts the named channel in the initial state and touches neither the other channel nor the reader; an operand
above 1 raises `BadArgument`. -/
def Obligations.ChInitRestoresChannel : Prop :=
  (∀ s : State, exec (.chInit 0) s = .next { s with
    ch0 := { s := ⟨0, 0, 0, 0, 0⟩, e := ⟨2560, 2560, 2560, 2560, 2560⟩, rv := 2, ba := 0, dead := false }
    result := 0, status := doneStatus s.status }) ∧
  (∀ s : State, exec (.chInit 1) s = .next { s with
    ch1 := { s := ⟨0, 0, 0, 0, 0⟩, e := ⟨2560, 2560, 2560, 2560, 2560⟩, rv := 2, ba := 0, dead := false }
    result := 0, status := doneStatus s.status }) ∧
  (∀ (s : State) (c : Byte), 1 < c.toNat → exec (.chInit c) s = .next { s with status := errorStatus s.status 9 })

/-- CH_DECODE_SAMPLE on a live channel whose next code word has `z` zeros, a stop bit within the cap and a divisor below 2^31:
every value of the sample in closed form, the bits used, and everything else unchanged. -/
def Obligations.DecodedSampleClosedForm : Prop :=
  ∀ (s : State) (op : Byte) (c : Chan) (k z : Nat), chanOf op = some c → (s.chan c).dead = false → (s.chan c).Good →
    s.readerOk = true → IsLeastIndex (s.chan c).e k →
    (∀ j < z, bitAt s.inMem s.br (s.br.pos + j) = false) → bitAt s.inMem s.br (s.br.pos + z) = true →
    z < s.params.unaryCap →
    let cs := csOf (stepOf (s.chan c).e) z
    let nb := (nbOf cs).toNat
    let co := rangeOf cs - cs
    let ext := bitsValue s.inMem s.br (s.br.pos + z + 1) nb
    let x := (bitAt s.inMem s.br (s.br.pos + z + 1 + nb)).toNat
    let d := deltaOf (BitVec.ofNat 32 (accOf (stepOf (s.chan c).e) z + remOf co ext x))
    let ch' := channelAfter (s.chan c) k d (rangeOf cs) (nbOf cs)
    cs < 2 ^ 31 →
    exec (.chDecodeSample op) s = .next { (s.setChan c ch') with
      br := readOn s.br (z + 1 + nb + if ext < co then 0 else 1)
      result := sampleOf ch'.s.r0, status := doneStatus s.status }

/-- R127: with `rv = 2^(ba+1)`, a divisor of 2^31 or more collapses the range: the channel is dead and otherwise unchanged, the
unary bits stay consumed, `RESULT` is kept and `Corrupt` is raised. -/
def Obligations.RangeCollapseFails : Prop :=
  ∀ (s : State) (op : Byte) (c : Chan) (z : Nat), chanOf op = some c → (s.chan c).dead = false → (s.chan c).Good →
    s.readerOk = true →
    (∀ j < z, bitAt s.inMem s.br (s.br.pos + j) = false) → bitAt s.inMem s.br (s.br.pos + z) = true →
    z < s.params.unaryCap → 2 ^ 31 ≤ csOf (stepOf (s.chan c).e) z →
    exec (.chDecodeSample op) s = .next { (s.setChan c { s.chan c with dead := true }) with
      br := readOn s.br (z + 1), status := errorStatus s.status 5 }

/-- R125: when all `UNARY_CAP` bits from the position are 0 the sample fails with exactly those bits consumed; so it does when
the position is at or past the end of the slice (R170). -/
def Obligations.UnaryCapFails : Prop :=
  ∀ (s : State) (op : Byte) (c : Chan), chanOf op = some c → (s.chan c).dead = false → s.readerOk = true →
    ((∀ j < s.params.unaryCap, bitAt s.inMem s.br (s.br.pos + j) = false) ∨ 8 * s.br.len ≤ s.br.pos) →
    exec (.chDecodeSample op) s = .next { (s.setChan c { s.chan c with dead := true }) with
      br := readOn s.br s.params.unaryCap, status := errorStatus s.status 5 }

/-- R121, R82: a sample on a dead channel fails at once and reads no bit, and CH_DECODE_SAMPLE then raises `Corrupt`; an operand
above 1 names no channel and raises `BadArgument`. -/
def Obligations.DeadChannelFailsAtOnce : Prop :=
  (∀ (m : Memory 8) (cap : Nat) (ch : Channel) (br : BitReader), ch.dead = true →
    sample m cap ch br = { reader := br, chan := ch, out := none }) ∧
  (∀ (s : State) (op : Byte) (c : Chan), chanOf op = some c → (s.chan c).dead = true →
    exec (.chDecodeSample op) s = .next { s with status := errorStatus s.status 5 }) ∧
  (∀ (s : State) (op : Byte), 1 < op.toNat →
    exec (.chDecodeSample op) s = .next { s with status := errorStatus s.status 9 })

/-- R129: range normalisation from `rv = 2^(ba+1)` gives `r = 2^(nb+1)` with `cs < r ≤ 2·cs` for `cs ≥ 1`, gives 1 and -1 for
`cs = 0`, and fails exactly for `cs ≥ 2^31`. -/
def Obligations.NormalisationInvariant : Prop :=
  ∀ (cs rv : Word) (ba : Int), -1 ≤ ba → ba ≤ 30 → rv = BitVec.ofNat 32 (2 ^ (ba + 1).toNat) →
    (normalise cs rv ba = none ↔ 2 ^ 31 ≤ cs.toNat) ∧
    ∀ r nb, normalise cs rv ba = some (r, nb) →
      -1 ≤ nb ∧ r.toNat = 2 ^ (nb + 1).toNat ∧ cs.toNat < r.toNat ∧ (1 ≤ cs.toNat → r.toNat ≤ 2 * cs.toNat) ∧
        (cs.toNat = 0 → r.toNat = 1 ∧ nb = -1)

/-- R97: for `cs ≥ 1` with `cs < r ≤ 2·cs`, `r = 2^(nb+1)`: the remainder is `ext` below `co` and else takes one more bit; it lies
in `0 .. cs-1`, the `co` smallest take `nb` bits and the others `nb + 1`; every value has a code, and equal values are read from
equal bits. -/
def Obligations.RemainderIsTruncatedBinary : Prop :=
  ∀ (cs r : Word) (nb : Nat), 1 ≤ cs.toNat → cs.toNat < r.toNat → r.toNat ≤ 2 * cs.toNat → r.toNat = 2 ^ (nb + 1) →
    let co := r.toNat - cs.toNat
    (∀ (m : Memory 8) (br : BitReader),
      let a := readRemainder m cs r nb br
      let ext := bitsValue m br br.pos nb
      a.1.toNat = remOf co ext (bitAt m br (br.pos + nb)).toNat ∧ a.1.toNat < cs.toNat ∧
        a.2 = readOn br (if a.1.toNat < co then nb else nb + 1)) ∧
    (∀ v < cs.toNat, ∃ ext < 2 ^ nb, ∃ x < 2, remOf co ext x = v) ∧
    ∀ (m m' : Memory 8) (br br' : BitReader),
      (readRemainder m cs r nb br).1 = (readRemainder m' cs r nb br').1 →
        ∃ n, (readRemainder m cs r nb br).2 = readOn br n ∧ (readRemainder m' cs r nb br').2 = readOn br' n ∧
          bitsValue m br br.pos n = bitsValue m' br' br'.pos n

/-- R98: the zig-zag map: an even value maps to itself, an odd one to minus its successor, and every delta is even. -/
def Obligations.ZigzagAlternates : Prop :=
  ∀ val : Word, zigzag val = val ^^^ (-(val &&& 1)) ∧ (val.toNat % 2 = 0 → zigzag val = val) ∧
    (val.toNat % 2 = 1 → zigzag val = -(val + 1)) ∧ (zigzag val).toNat % 2 = 0

/-- R122: the energy index is the least index at which the energies take their minimum, compared unsigned. -/
def Obligations.EnergyIndexIsLeastMinimum : Prop := ∀ e : Five, IsLeastIndex e (energyIndex e)

/-- R145: each energy gains the biased magnitude of the new predictor register and loses a thirty-second of itself, mod 2^32. -/
def Obligations.EnergyUpdateBiased : Prop :=
  ∀ (e s : Five) (i : Nat), i < 5 → (energyUpdate e s).get i = energyOf (e.get i) (s.get i)

/-- R148, R149: a 0 bit adds the divisor, counts, and quadruples the divisor every seventh time; a 1 bit leaves the loop; the
rest of the state is unchanged. -/
def Obligations.UnaryBitsStep : Prop :=
  (∀ (s : State) (c : Chan) (u : UnaryRegs), s.work = .unary c u → u.qc = 1 →
    exec .unaryZero s = .next { s with
      work := .unary c { acc := u.acc + u.cs, cs := u.cs * 4, qc := 7, z := u.z + 1 } }) ∧
  (∀ (s : State) (c : Chan) (u : UnaryRegs), s.work = .unary c u → 2 ≤ u.qc →
    exec .unaryZero s = .next { s with
      work := .unary c { acc := u.acc + u.cs, cs := u.cs, qc := u.qc - 1, z := u.z + 1 } }) ∧
  (∀ (s : State) (c : Chan) (u : UnaryRegs), s.work = .unary c u →
    exec .unaryStop s = .next { s with work := .range c u })

/-- R140-R144, R147: each predictor case rebuilds the five registers of its channel from the old ones and the delta; nothing
else of the machine's state changes. -/
def Obligations.PredictorCasesUpdate : Prop :=
  ∀ (s : State) (c : Chan) (d : Word), s.work = .predict c d →
    let after := fun k => { (s.setChan c { s.chan c with s := fiveOf (predOf k (s.chan c).s d) }) with work := .emit c }
    exec .predK0 s = .next (after 0) ∧ exec .predK1 s = .next (after 1) ∧ exec .predK2 s = .next (after 2) ∧
      exec .predK3 s = .next (after 3) ∧ exec .predK4 s = .next (after 4)

/-- The sample decoded instruction by instruction from the start of its unary loop ends in the state that CH_DECODE_SAMPLE
answers in one atomic step. Decoding by instructions is the model's choice (log 4): R5 gives only the atomic command. -/
def Obligations.SampleStepsAgreeWithCommand : Prop :=
  ∀ (s : State) (op : Byte) (c : Chan), s.work = .none → chanOf op = some c → (s.chan c).dead = false →
    s.readerOk = true →
    ∃ n t, exec (.chDecodeSample op) s = .next t ∧
      Host.Core.run Sys2Proof.core n { s.beginCommand with work := .unary c (unaryStart (s.chan c).e) } = .next t

/-! ## Streams -/

/-- R164, R160, R161, R163, R169: DECODE_MONO writes the samples of the mono run to OUT from slot 0 and to no other slot,
counts them in `RESULT`, sets `SHORT` when they are fewer than asked for, releases the results and binds the reader. -/
def Obligations.DecodeMonoWritesRun : Prop :=
  ∀ s : State, s.inLen.toNat ≤ s.params.inSize → s.argOff.toNat + s.argLen.toNat ≤ s.inLen.toNat →
    s.argN.toNat ≤ s.params.outSize → Memory.wf s.outMem →
    let run := monoOf s s.argOff.toNat s.argLen.toNat s.argN.toNat
    ∃ out, exec .decodeMono s = .next { s.release with
        status := { state := .done, trunc := false, short := decide (run.1.length < s.argN.toNat), decoded := false, err := 0 }
        result := BitVec.ofNat 32 run.1.length, br := run.2.1, ch0 := run.2.2, ch1 := Channel.initial, outMem := out } ∧
      HoldsMono s.outMem out run.1 ∧ run.1.length ≤ s.argN.toNat

/-- R165, R162, R166, R167, R169: DECODE_STEREO writes each frame's left sample and left plus delta, mod 2^16, interleaved from
slot 0, and counts frames; a frame whose delta fails is neither written nor counted. -/
def Obligations.DecodeStereoWritesRun : Prop :=
  ∀ s : State, s.inLen.toNat ≤ s.params.inSize → s.argOff.toNat + s.argLen.toNat ≤ s.inLen.toNat →
    2 * s.argN.toNat ≤ s.params.outSize → Memory.wf s.outMem →
    let run := stereoOf s s.argOff.toNat s.argLen.toNat s.argN.toNat
    ∃ out, exec .decodeStereo s = .next { s.release with
        status := { state := .done, trunc := false, short := decide (run.1.length < s.argN.toNat), decoded := false, err := 0 }
        result := BitVec.ofNat 32 run.1.length, br := run.2.1, ch0 := run.2.2.1, ch1 := run.2.2.2, outMem := out } ∧
      HoldsStereo s.outMem out run.1 ∧ run.1.length ≤ s.argN.toNat

/-- R259, R258: a decode command whose slice is not inside `IN[0 .. IN_LEN-1]`, or whose frames do not fit in OUT, releases the
results, clears the flags and raises `BadArgument`; nothing else changes. -/
def Obligations.DecodeBadArguments : Prop :=
  ∀ s : State,
    (s.params.inSize < s.inLen.toNat ∨ s.inLen.toNat < s.argOff.toNat + s.argLen.toNat ∨ s.params.outSize < s.argN.toNat →
      exec .decodeMono s = .next { s.release with status := clearError 9 }) ∧
    (s.params.inSize < s.inLen.toNat ∨ s.inLen.toNat < s.argOff.toNat + s.argLen.toNat ∨
        s.params.outSize < 2 * s.argN.toNat →
      exec .decodeStereo s = .next { s.release with status := clearError 9 })

/-! ## Chunks -/

/-- R193, R192: GLOB of 20 bytes or more stores its bars, beats, time signature and tempo; a shorter one changes nothing. -/
def Obligations.GlobStoresFields : Prop :=
  ∀ (s : State) (len : Word) (pl : Nat), AtChunk s len pl → decodeChunk 0x474C4F42 len = .glob len ∧
    (20 ≤ len.toNat → exec (.glob len) s = .next { s with
      barsBeats := BitVec.ofNat 32 (half s (pl + 4) + 65536 * byteAt s (pl + 6))
      timesig := BitVec.ofNat 32 (byteAt s (pl + 7) + 256 * byteAt s (pl + 8))
      tempoMbpm := BitVec.ofNat 32 (quad s (pl + 16)) }) ∧
    (len.toNat < 20 → exec (.glob len) s = .next s)

/-- R195, R192: HEAD of 6 bytes or more stores its byte 5; a shorter one changes nothing. -/
def Obligations.HeadStoresField : Prop :=
  ∀ (s : State) (len : Word) (pl : Nat), AtChunk s len pl → decodeChunk 0x48454144 len = .head len ∧
    (6 ≤ len.toNat → exec (.head len) s = .next { s with bytesPerSample := BitVec.ofNat 32 (byteAt s (pl + 5)) }) ∧
    (len.toNat < 6 → exec (.head len) s = .next s)

/-- R197, R192: SINF of 10 bytes or more stores its channel count and total frames, and its sample rate when not 0; a shorter
one changes nothing. -/
def Obligations.SinfStoresFields : Prop :=
  ∀ (s : State) (len : Word) (pl : Nat), AtChunk s len pl → decodeChunk 0x53494E46 len = .sinf len ∧
    (10 ≤ len.toNat → half s (pl + 4) ≠ 0 → exec (.sinf len) s = .next { s with
      channels := BitVec.ofNat 32 (byteAt s pl), sampleRate := BitVec.ofNat 32 (half s (pl + 4))
      totalFrames := BitVec.ofNat 32 (quad s (pl + 6)) }) ∧
    (10 ≤ len.toNat → half s (pl + 4) = 0 → exec (.sinf len) s = .next { s with
      channels := BitVec.ofNat 32 (byteAt s pl), totalFrames := BitVec.ofNat 32 (quad s (pl + 6)) }) ∧
    (len.toNat < 10 → exec (.sinf len) s = .next s)

/-- R199-R201: SLCE appends its slice in order; a short chunk, a transient marker or a full table changes nothing. -/
def Obligations.SlceAppendsSlice : Prop :=
  ∀ (s : State) (len : Word) (pl : Nat), AtChunk s len pl → decodeChunk 0x534C4345 len = .slce len ∧
    (8 ≤ len.toNat → 2 ≤ quad s (pl + 4) → s.slices.length < s.params.maxSlices →
      exec (.slce len) s = .next { s with
        slices := s.slices ++ [{ off := BitVec.ofNat 32 (quad s pl), len := BitVec.ofNat 32 (quad s (pl + 4)) }] }) ∧
    (len.toNat < 8 ∨ quad s (pl + 4) ≤ 1 ∨ s.params.maxSlices ≤ s.slices.length → exec (.slce len) s = .next s)

/-- R203, R187: a chunk with an unknown tag changes nothing, and the walk's next step stands at the chunk after it, past the pad
byte of an odd length. -/
def Obligations.UnknownChunkSkipped : Prop :=
  (∀ (s : State) (tag len : Word), exec (.unknownTag tag len) s = .next s) ∧
  (∀ (s : State) (l : Level) (rest : List Level), s.work = .walk → s.walker = l :: rest → l.stop ≤ s.params.inSize →
    l.pos + 8 + quad s (l.pos + 4) ≤ l.stop → BitVec.ofNat 32 (quad s l.pos) ∉ knownTags →
    step s = .next { s with walker :=
      { pos := l.pos + 8 + quad s (l.pos + 4) + quad s (l.pos + 4) % 2, stop := l.stop } :: rest })

/-- R182, R183: a level with fewer than 8 bytes left returns without reading; a chunk longer than its level sets `TRUNC` and ends
that level alone. -/
def Obligations.LevelEnds : Prop :=
  ∀ (s : State) (l : Level) (rest : List Level), s.work = .walk → s.walker = l :: rest → l.stop ≤ s.params.inSize →
    (l.stop < l.pos + 8 → step s = .next { s with walker := rest }) ∧
    (l.pos + 8 ≤ l.stop → l.stop < l.pos + 8 + quad s (l.pos + 4) →
      step s = .next { s with walker := rest, status := { s.status with trunc := true } })

/-- R191, R202: a container with no room for a nested chunk changes nothing, nor does an SDAT after the first. -/
def Obligations.ShortContainerAndLaterSdatSkipped : Prop :=
  ∀ (s : State) (len : Word) (pl : Nat), AtChunk s len pl →
    (len.toNat < 12 → exec (.cat len) s = .next s) ∧ (s.status.decoded = true → exec (.sdat len) s = .next s)

/-- R185, R191: a container runs the walk of its nested level: it answers the state that walking that level step by step
reaches, the enclosing level as it was. Walking by steps is the model's choice (log 4): R5 gives only the atomic command. -/
def Obligations.ContainerWalksNestedLevel : Prop :=
  ∀ (s : State) (len : Word) (pl : Nat), AtChunk s len pl → s.work = .walk → 4 ≤ len.toNat →
    ∃ n t, exec (.cat len) s = .next t ∧ (t.work = .walk → t.walker = s.walker) ∧
      Host.Core.run Sys2Proof.core n
        { s with walker := { pos := pl + 4, stop := pl + len.toNat } :: s.walker } = .next t

/-- R202, R224, R226: the first SDAT of a mono file decodes its payload into OUT, latches the channel count and counts the
frames. -/
def Obligations.SdatDecodesMono : Prop :=
  ∀ (s : State) (len : Word) (pl : Nat), AtChunk s len pl → s.status.decoded = false → s.channels = 1 →
    framesOf s len ≤ s.params.maxFrames → framesOf s len ≤ s.params.outSize → Memory.wf s.outMem →
    let run := monoOf s pl len.toNat (framesOf s len)
    (s.totalFrames = 0 ∨ run.1.length = framesOf s len) →
    ∃ out, exec (.sdat len) s = .next { s with
        status := { s.status with decoded := true, short := s.status.short || decide (run.1.length < framesOf s len) }
        decChannels := 1, pcmFrames := BitVec.ofNat 32 run.1.length
        br := run.2.1, ch0 := run.2.2, ch1 := Channel.initial, outMem := out } ∧
      HoldsMono s.outMem out run.1

/-- R202, R224, R226: the same of a stereo file. -/
def Obligations.SdatDecodesStereo : Prop :=
  ∀ (s : State) (len : Word) (pl : Nat), AtChunk s len pl → s.status.decoded = false → s.channels = 2 →
    framesOf s len ≤ s.params.maxFrames → 2 * framesOf s len ≤ s.params.outSize → Memory.wf s.outMem →
    let run := stereoOf s pl len.toNat (framesOf s len)
    (s.totalFrames = 0 ∨ run.1.length = framesOf s len) →
    ∃ out, exec (.sdat len) s = .next { s with
        status := { s.status with decoded := true, short := s.status.short || decide (run.1.length < framesOf s len) }
        decChannels := 2, pcmFrames := BitVec.ofNat 32 run.1.length
        br := run.2.1, ch0 := run.2.2.1, ch1 := run.2.2.2, outMem := out } ∧
      HoldsStereo s.outMem out run.1

/-- R224-R226, R188, R230: an SDAT whose channel count is not 1 or 2, whose frames exceed the ceiling or OUT, or whose mono or
stereo stream falls short of a declared count, ends the PARSE with `Corrupt`, `Oversize`, `OutOfMemory` or `Corrupt`, everything
released; the short stream leaves `SHORT` set and the reader, the channels and OUT as its run does. -/
def Obligations.SdatErrorsEndParse : Prop :=
  ∀ (s : State) (len : Word) (pl : Nat), AtChunk s len pl → s.status.decoded = false →
    let ended := fun code => { s.release with
      walker := [], work := .none, status := { errorStatus s.status code with decoded := true } }
    (s.channels ≠ 1 → s.channels ≠ 2 → exec (.sdat len) s = .next (ended 5)) ∧
    (s.channels = 1 ∨ s.channels = 2 →
      (s.params.maxFrames < framesOf s len → exec (.sdat len) s = .next (ended 6)) ∧
      (framesOf s len ≤ s.params.maxFrames → s.params.outSize < framesOf s len * s.channels.toNat →
        exec (.sdat len) s = .next (ended 7))) ∧
    (s.channels = 1 → s.totalFrames ≠ 0 → framesOf s len ≤ s.params.maxFrames → framesOf s len ≤ s.params.outSize →
      let run := monoOf s pl len.toNat (framesOf s len)
      run.1.length < framesOf s len →
      ∃ out, exec (.sdat len) s = .next { ended 5 with
          status := { state := .error, trunc := s.status.trunc, short := true, decoded := true, err := 5 }
          br := run.2.1, ch0 := run.2.2, ch1 := Channel.initial, outMem := out } ∧
        (Memory.wf s.outMem → HoldsMono s.outMem out run.1)) ∧
    (s.channels = 2 → s.totalFrames ≠ 0 → framesOf s len ≤ s.params.maxFrames → 2 * framesOf s len ≤ s.params.outSize →
      let run := stereoOf s pl len.toNat (framesOf s len)
      run.1.length < framesOf s len →
      ∃ out, exec (.sdat len) s = .next { ended 5 with
          status := { state := .error, trunc := s.status.trunc, short := true, decoded := true, err := 5 }
          br := run.2.1, ch0 := run.2.2.1, ch1 := run.2.2.2, outMem := out } ∧
        (Memory.wf s.outMem → HoldsStereo s.outMem out run.1))

/-! ## PARSE and DESTROY -/

/-- R222: the pre-checks of PARSE, in order; each failing one leaves the released state and nothing of the file. -/
def Obligations.ParsePreChecks : Prop :=
  ∀ s : State,
    let failed := fun code => { s.release with result := 0, walker := [], status := clearError code }
    (s.params.inSize < s.inLen.toNat → exec .parse s = .next (failed 9)) ∧
    (s.inLen.toNat ≤ s.params.inSize → s.inLen.toNat < s.params.minFileBytes → exec .parse s = .next (failed 1)) ∧
    (s.inLen.toNat ≤ s.params.inSize → s.params.minFileBytes ≤ s.inLen.toNat → quad s 0 ≠ 0x43415420 →
      exec .parse s = .next (failed 2))

/-- A file that is one container holding one SDAT of `n` bytes, with no SINF: PARSE ends DONE with the mono run of the derived
frame count in OUT, the defaults in the metadata registers and one full-buffer slice. -/
def Obligations.ParseSingleSdatFile : Prop :=
  ∀ (s : State) (n : Nat), s.inLen.toNat = 20 + n → 20 + n ≤ s.params.inSize → s.params.minFileBytes ≤ 20 + n →
    quad s 0 = 0x43415420 → quad s 4 = 12 + n → quad s 12 = 0x53444154 → quad s 16 = n →
    frameBound s.params n ≤ s.params.maxFrames → s.params.maxFrames < 2 ^ 32 →
    frameBound s.params n ≤ s.params.outSize → Memory.wf s.outMem →
    let run := monoOf s 20 n (frameBound s.params n)
    run.1 ≠ [] →
    ∃ out, exec .parse s = .next { s.release with
        status := { state := .done, trunc := false, short := decide (run.1.length < frameBound s.params n), decoded := true,
                    err := 0 }
        result := 0, pcmFrames := BitVec.ofNat 32 run.1.length, decChannels := 1, sampleRate := 44100, channels := 1
        slices := [{ off := 0, len := BitVec.ofNat 32 run.1.length }], walker := []
        br := run.2.1, ch0 := run.2.2, ch1 := Channel.initial, outMem := out } ∧
      HoldsMono s.outMem out run.1

/-- R230, R220: every PARSE answers a next state; one that ends in ERROR leaves the released state, `RESULT` 0 and no open
level. -/
def Obligations.ParseFailureReleases : Prop :=
  ∀ s : State, ∃ t, exec .parse s = .next t ∧ (t.status.state = .done ∨ t.status.state = .error) ∧ t.result = 0 ∧
    t.walker = [] ∧ (t.status.state = .error → Released t)

/-- R227, R228, R29: a PARSE that ends DONE has decoded audio and at least one slice; every slice lies in the PCM or is empty;
`SLICE_COUNT` is at most `MAX_SLICES`. -/
def Obligations.ParseSuccessShape : Prop :=
  ∀ s t : State, s.params.Valid → exec .parse s = .next t → t.status.state = .done →
    t.status.decoded = true ∧ t.status.err = 0 ∧ t.pcmFrames ≠ 0 ∧ (t.decChannels = 1 ∨ t.decChannels = 2) ∧
      t.slices ≠ [] ∧ t.slices.length ≤ t.params.maxSlices ∧ ∀ x ∈ t.slices, x.Clamped t.pcmFrames

/-- R229: the clamp over the integers: the offset stays, a slice inside the PCM stays, one that runs past it is cut, one that
starts at or past its end is empty; synthesis gives one full-buffer slice (R228), and order and number stay. -/
def Obligations.SlicesAreClamped : Prop :=
  (∀ (frames : Word) (x : Slice), (clampSlice frames x).off = x.off ∧
    (clampSlice frames x).len.toNat =
      if x.off.toNat + x.len.toNat ≤ frames.toNat then x.len.toNat else frames.toNat - x.off.toNat) ∧
  (∀ frames : Word, finalSlices frames [] = [{ off := 0, len := frames }]) ∧
  (∀ (frames : Word) (l : List Slice), l ≠ [] → finalSlices frames l = l.map (clampSlice frames))

/-- Walking a file step by step, chunk instruction by chunk instruction, from PARSE's start ends in the state that PARSE
answers in one atomic step. Walking by steps is the model's choice (log 4): R5 gives only the atomic command. -/
def Obligations.ParseStepsAgreeWithCommand : Prop :=
  ∀ s s1 : State, s.work = .none → parseStart s.beginCommand = .ok s1 →
    ∃ n t, exec .parse s = .next t ∧ Host.Core.run Sys2Proof.core n { s1 with work := .walk } = .next t

/-- R232: PARSE depends on `IN[0 .. IN_LEN-1]`, `IN_LEN` and the parameters alone: from two states that agree on them it leaves the
same `STATUS`, `RESULT`, metadata registers, slice table and PCM. DESTROY after DESTROY changes nothing. -/
def Obligations.ParseDependsOnInputAlone : Prop :=
  (∀ s1 s2 t1 t2 : State, s1.params.Valid → s1.params = s2.params → s1.inLen = s2.inLen →
    (∀ a < s1.inLen.toNat, Memory.read s1.inMem a = Memory.read s2.inMem a) → Memory.wf s1.outMem →
    Memory.wf s2.outMem → exec .parse s1 = .next t1 → exec .parse s2 = .next t2 →
    SameResults t1 t2 ∧ t1.pcm = t2.pcm) ∧
  (∀ s t u : State, exec .destroy s = .next t → exec .destroy t = .next u → u = t)

/-- R231: DESTROY releases the results, clears the flags and writes 0 to `RESULT`; OUT, the reader, the channels and the RW
registers stay. -/
def Obligations.DestroyReleases : Prop :=
  ∀ s : State, exec .destroy s = .next { s with
    pcmFrames := 0, decChannels := 0, sampleRate := 0, channels := 0, bytesPerSample := 0, tempoMbpm := 0, timesig := 0
    barsBeats := 0, totalFrames := 0, slices := [], result := 0
    status := { state := .done, trunc := false, short := false, decoded := false, err := 0 } }

/-! ## Whole-machine rules -/

/-- Every step from a state that meets the invariant of the machine between host accesses leaves a state that meets it. -/
def Obligations.StepKeepsGood : Prop := ∀ s t : State, s.Good → step s = .next t → t.Good

/-- R269, R71, R63, R259: from a state that meets the invariant, every step whose host access names an address that exists answers
a next state, writes no slot past the end of OUT, and depends on no IN byte but those below `IN_LEN` and those of the bound
slice. -/
def Obligations.GoodStatesStepSafely : Prop := ∀ s : State, s.Good → s.nextAccessExists = true → s.StepsSafely

/-- R80, R254: a command that answers a next state has ended, DONE with `ERR` 0 or ERROR with a code of R251; and one that
raised left `RESULT` alone, but for PARSE and DESTROY, which write 0 (R27). -/
def Obligations.CommandsEndOnce : Prop :=
  ∀ (i : Instr) (s t : State), isCommand i = true → exec i s = .next t →
    ((t.status.state = .done ∧ t.status.err = 0) ∨ (t.status.state = .error ∧ t.status.err ∈ errCodes ∧ t.status.err ≠ 0)) ∧
    (t.status.state = .error → i ≠ .parse → t.result = s.result) ∧ (i = .parse ∨ i = .destroy → t.result = 0)

/-- R65: only the stream loops write OUT: no other instruction changes it, and no host access but a command does. -/
def Obligations.OutWrittenOnlyByStreams : Prop :=
  (∀ (i : Instr) (s t : State), runsStream i = false → exec i s = .next t → t.outMem = s.outMem) ∧
  (∀ (a : HostAccess) (s t : State), (∀ w, a ≠ .writeReg 0 w) → hostAccess a s = .next t → t.outMem = s.outMem)

/-- R60, R46: the block never writes IN, the RW registers or the parameters: no instruction changes them or the host's side of
the interface, and no step changes the parameters. -/
def Obligations.BlockNeverWritesInputs : Prop :=
  (∀ (i : Instr) (s t : State), exec i s = .next t → SameInputs s t) ∧
  (∀ s t : State, step s = .next t → t.params = s.params)

/-- R28: only PARSE and the chunks it walks write metadata and slices: the reader and channel commands and the symbols of a
sample leave them alone, and the decode commands and DESTROY leave the released state. -/
def Obligations.MetadataWrittenOnlyByParse : Prop :=
  (∀ (i : Instr) (s t : State), exec i s = .next t →
    i ∈ [.brInit, .brReadBit, .unaryZero, .unaryStop, .predK0, .predK1, .predK2, .predK3, .predK4] ∨
      (∃ b, i = .brReadBits b ∨ i = .chInit b ∨ i = .chDecodeSample b) → SameMetadata s t) ∧
  (∀ (i : Instr) (s t : State), exec i s = .next t → i ∈ [.destroy, .decodeMono, .decodeStereo] → Released t)

/-- R31: the reader's position never decreases while it stays bound: an instruction that does not bind it keeps its slice and
reads on. -/
def Obligations.ReaderNeverGoesBack : Prop :=
  ∀ (i : Instr) (s t : State), runsStream i = false → i ≠ .brInit → exec i s = .next t →
    t.br.base = s.br.base ∧ t.br.len = s.br.len ∧ s.br.pos ≤ t.br.pos

/-- R40: only CH_INIT of that channel or the start of a stream brings a dead channel back. -/
def Obligations.DeadChannelStaysDead : Prop :=
  ∀ (i : Instr) (c : Chan) (s t : State), runsStream i = false → (∀ op, i = .chInit op → chanOf op ≠ some c) →
    (s.chan c).dead = true → exec i s = .next t → (t.chan c).dead = true
end

