-- ==== Sys2Proof/Laws/Memory.lean ====
section
/-! SUPPORT. The laws of sparse memory: a read after a write, and the canonical form, which every write keeps. -/

namespace Sys2Proof.Machine

variable {w : Nat}

@[simp] theorem Memory.read_nil (a : Nat) : Memory.read ([] : Memory w) a = 0 := rfl

theorem Memory.read_cons (b : Nat) (v : BitVec w) (m : Memory w) (a : Nat) :
    Memory.read ((b, v) :: m) a = if a = b then v else Memory.read m a := rfl

/-- An address below every listed one reads as 0. -/
theorem Memory.read_of_lt {m : Memory w} {a : Nat} (h : ∀ c ∈ m, a < c.1) : Memory.read m a = 0 := by
  induction m with
  | nil => rfl
  | cons c m ih =>
    obtain ⟨b, v⟩ := c
    have hb : a < b := h (b, v) (by simp)
    rw [Memory.read_cons, if_neg (by omega)]
    exact ih fun c hc => h c (by simp [hc])

theorem Memory.wf_nil : Memory.wf ([] : Memory w) := by simp [Memory.wf]

theorem Memory.wf_cons {b : Nat} {v : BitVec w} {m : Memory w} :
    Memory.wf ((b, v) :: m) ↔ (∀ c ∈ m, b < c.1) ∧ v ≠ 0 ∧ Memory.wf m := by
  simp only [Memory.wf, List.map_cons, List.pairwise_cons, List.mem_map, Prod.exists, List.mem_cons,
    forall_eq_or_imp, exists_and_right, exists_eq_right, Prod.forall, forall_exists_index]
  constructor
  · rintro ⟨⟨h1, h2⟩, h3, h4⟩
    exact ⟨h1, h3, h2, h4⟩
  · rintro ⟨h1, h3, h2, h4⟩
    exact ⟨⟨h1, h2⟩, h3, h4⟩

/-- A write changes no address but its own. -/
theorem Memory.read_write_other (m : Memory w) {a b : Nat} (x : BitVec w) (h : b ≠ a) :
    Memory.read (Memory.write m a x) b = Memory.read m b := by
  induction m with
  | nil =>
    unfold Memory.write
    split_ifs <;> simp [Memory.read_cons, h]
  | cons c m ih =>
    obtain ⟨k, v⟩ := c
    unfold Memory.write
    split_ifs <;> simp_all [Memory.read_cons]

/-- A read after a write to the same address gives the value written, on a canonical memory. -/
theorem Memory.read_write_same {m : Memory w} (hm : Memory.wf m) (a : Nat) (x : BitVec w) :
    Memory.read (Memory.write m a x) a = x := by
  induction m with
  | nil =>
    unfold Memory.write
    split_ifs <;> simp_all [Memory.read_cons]
  | cons c m ih =>
    obtain ⟨k, v⟩ := c
    obtain ⟨hlt, -, hwf⟩ := Memory.wf_cons.1 hm
    unfold Memory.write
    split_ifs with h1 h2 h2 h3
    · rw [Memory.read_cons, if_neg (by omega), h2]
      exact Memory.read_of_lt fun c hc => lt_trans h1 (hlt c hc)
    · simp [Memory.read_cons]
    · subst h2
      rw [h3]
      exact Memory.read_of_lt hlt
    · simp [Memory.read_cons]
    · rw [Memory.read_cons, if_neg h2]
      exact ih hwf

/-- Every address a write leaves listed was listed or is the one written. -/
theorem Memory.mem_write {m : Memory w} {a : Nat} {x : BitVec w} {c : Nat × BitVec w}
    (h : c ∈ Memory.write m a x) : c = (a, x) ∨ c ∈ m := by
  induction m with
  | nil =>
    unfold Memory.write at h
    split_ifs at h <;> simp_all
  | cons d m ih =>
    obtain ⟨k, v⟩ := d
    unfold Memory.write at h
    split_ifs at h <;> simp only [List.mem_cons] at h ⊢ <;> tauto

/-- A write keeps the canonical form. -/
theorem Memory.write_wf {m : Memory w} (hm : Memory.wf m) (a : Nat) (x : BitVec w) :
    Memory.wf (Memory.write m a x) := by
  induction m with
  | nil =>
    unfold Memory.write
    split_ifs with h
    · exact Memory.wf_nil
    · exact Memory.wf_cons.2 ⟨by simp, h, Memory.wf_nil⟩
  | cons d m ih =>
    obtain ⟨k, v⟩ := d
    obtain ⟨hlt, hv, hwf⟩ := Memory.wf_cons.1 hm
    unfold Memory.write
    split_ifs with h1 h2 h2 h3
    · exact hm
    · refine Memory.wf_cons.2 ⟨?_, h2, hm⟩
      intro c hc
      rcases List.mem_cons.1 hc with rfl | hc
      · exact h1
      · exact lt_trans h1 (hlt c hc)
    · exact hwf
    · exact Memory.wf_cons.2 ⟨h2 ▸ hlt, h3, hwf⟩
    · refine Memory.wf_cons.2 ⟨?_, hv, ih hwf⟩
      intro c hc
      rcases Memory.mem_write hc with rfl | hc
      · show k < a
        omega
      · exact hlt c hc

/-- Two canonical memories that read alike are equal. -/
theorem Memory.ext_of_wf {m n : Memory w} (hm : Memory.wf m) (hn : Memory.wf n)
    (h : ∀ a, Memory.read m a = Memory.read n a) : m = n := by
  induction m generalizing n with
  | nil =>
    cases n with
    | nil => rfl
    | cons d n =>
      obtain ⟨k, v⟩ := d
      have := h k
      simp only [Memory.read_nil, Memory.read_cons, if_true] at this
      exact absurd this.symm (Memory.wf_cons.1 hn).2.1
  | cons c m ih =>
    obtain ⟨b, v⟩ := c
    obtain ⟨hb, hv, hm'⟩ := Memory.wf_cons.1 hm
    cases n with
    | nil =>
      have := h b
      simp only [Memory.read_nil, Memory.read_cons, if_true] at this
      exact absurd this hv
    | cons d n =>
      obtain ⟨k, x⟩ := d
      obtain ⟨hk, hx, hn'⟩ := Memory.wf_cons.1 hn
      have hbk : b = k := by
        rcases lt_trichotomy b k with hlt | heq | hlt
        · have := h b
          rw [Memory.read_cons, if_pos rfl, Memory.read_cons, if_neg (by omega),
            Memory.read_of_lt fun c hc => lt_trans hlt (hk c hc)] at this
          exact absurd this hv
        · exact heq
        · have := h k
          rw [Memory.read_cons, if_neg (by omega), Memory.read_cons, if_pos rfl,
            Memory.read_of_lt fun c hc => lt_trans hlt (hb c hc)] at this
          exact absurd this.symm hx
      subst hbk
      have hvx : v = x := by simpa [Memory.read_cons] using h b
      subst hvx
      congr 1
      refine ih hm' hn' fun a => ?_
      by_cases hab : a = b
      · subst hab
        rw [Memory.read_of_lt hb, Memory.read_of_lt hk]
      · simpa [Memory.read_cons, hab] using h a

theorem memWrite_wf {m : Memory 16} (hm : Memory.wf m) (i : Nat) (v : Sample) : Memory.wf (memWrite m i v) :=
  Memory.write_wf hm i v

theorem reset_inMem_wf : Memory.wf State.reset.inMem := Memory.wf_nil

theorem reset_outMem_wf : Memory.wf State.reset.outMem := Memory.wf_nil

/-- A one-byte `MemRead` is the byte. -/
@[simp] theorem memRead_one (m : Memory 8) (a : Nat) : memRead m a 1 = (Memory.read m a).setWidth 32 := by
  simp [memRead]

end Sys2Proof.Machine
end

