-- ==== Sys2Proof/Laws/State.lean ====
section
/-! SUPPORT. What every named update of the state does to every field: one lemma a field, true by unfolding, for simp. -/

namespace Sys2Proof.Machine

variable (s : State)


/-! ## setCmdState -/

@[simp] theorem State.setCmdState_params (x : CmdState) : (s.setCmdState x).params = s.params := rfl
@[simp] theorem State.setCmdState_cmd (x : CmdState) : (s.setCmdState x).cmd = s.cmd := rfl
@[simp] theorem State.setCmdState_status (x : CmdState) : (s.setCmdState x).status = { s.status with state := x } := rfl
@[simp] theorem State.setCmdState_inLen (x : CmdState) : (s.setCmdState x).inLen = s.inLen := rfl
@[simp] theorem State.setCmdState_argOff (x : CmdState) : (s.setCmdState x).argOff = s.argOff := rfl
@[simp] theorem State.setCmdState_argLen (x : CmdState) : (s.setCmdState x).argLen = s.argLen := rfl
@[simp] theorem State.setCmdState_argN (x : CmdState) : (s.setCmdState x).argN = s.argN := rfl
@[simp] theorem State.setCmdState_result (x : CmdState) : (s.setCmdState x).result = s.result := rfl
@[simp] theorem State.setCmdState_pcmFrames (x : CmdState) : (s.setCmdState x).pcmFrames = s.pcmFrames := rfl
@[simp] theorem State.setCmdState_decChannels (x : CmdState) : (s.setCmdState x).decChannels = s.decChannels := rfl
@[simp] theorem State.setCmdState_sampleRate (x : CmdState) : (s.setCmdState x).sampleRate = s.sampleRate := rfl
@[simp] theorem State.setCmdState_channels (x : CmdState) : (s.setCmdState x).channels = s.channels := rfl
@[simp] theorem State.setCmdState_bytesPerSample (x : CmdState) : (s.setCmdState x).bytesPerSample = s.bytesPerSample := rfl
@[simp] theorem State.setCmdState_tempoMbpm (x : CmdState) : (s.setCmdState x).tempoMbpm = s.tempoMbpm := rfl
@[simp] theorem State.setCmdState_timesig (x : CmdState) : (s.setCmdState x).timesig = s.timesig := rfl
@[simp] theorem State.setCmdState_barsBeats (x : CmdState) : (s.setCmdState x).barsBeats = s.barsBeats := rfl
@[simp] theorem State.setCmdState_totalFrames (x : CmdState) : (s.setCmdState x).totalFrames = s.totalFrames := rfl
@[simp] theorem State.setCmdState_slices (x : CmdState) : (s.setCmdState x).slices = s.slices := rfl
@[simp] theorem State.setCmdState_inMem (x : CmdState) : (s.setCmdState x).inMem = s.inMem := rfl
@[simp] theorem State.setCmdState_outMem (x : CmdState) : (s.setCmdState x).outMem = s.outMem := rfl
@[simp] theorem State.setCmdState_br (x : CmdState) : (s.setCmdState x).br = s.br := rfl
@[simp] theorem State.setCmdState_ch0 (x : CmdState) : (s.setCmdState x).ch0 = s.ch0 := rfl
@[simp] theorem State.setCmdState_ch1 (x : CmdState) : (s.setCmdState x).ch1 = s.ch1 := rfl
@[simp] theorem State.setCmdState_walker (x : CmdState) : (s.setCmdState x).walker = s.walker := rfl
@[simp] theorem State.setCmdState_work (x : CmdState) : (s.setCmdState x).work = s.work := rfl
@[simp] theorem State.setCmdState_host (x : CmdState) : (s.setCmdState x).host = s.host := rfl
@[simp] theorem State.setCmdState_hostData (x : CmdState) : (s.setCmdState x).hostData = s.hostData := rfl

/-! ## setErr -/

@[simp] theorem State.setErr_params (x : BitVec 8) : (s.setErr x).params = s.params := rfl
@[simp] theorem State.setErr_cmd (x : BitVec 8) : (s.setErr x).cmd = s.cmd := rfl
@[simp] theorem State.setErr_status (x : BitVec 8) : (s.setErr x).status = { s.status with err := x } := rfl
@[simp] theorem State.setErr_inLen (x : BitVec 8) : (s.setErr x).inLen = s.inLen := rfl
@[simp] theorem State.setErr_argOff (x : BitVec 8) : (s.setErr x).argOff = s.argOff := rfl
@[simp] theorem State.setErr_argLen (x : BitVec 8) : (s.setErr x).argLen = s.argLen := rfl
@[simp] theorem State.setErr_argN (x : BitVec 8) : (s.setErr x).argN = s.argN := rfl
@[simp] theorem State.setErr_result (x : BitVec 8) : (s.setErr x).result = s.result := rfl
@[simp] theorem State.setErr_pcmFrames (x : BitVec 8) : (s.setErr x).pcmFrames = s.pcmFrames := rfl
@[simp] theorem State.setErr_decChannels (x : BitVec 8) : (s.setErr x).decChannels = s.decChannels := rfl
@[simp] theorem State.setErr_sampleRate (x : BitVec 8) : (s.setErr x).sampleRate = s.sampleRate := rfl
@[simp] theorem State.setErr_channels (x : BitVec 8) : (s.setErr x).channels = s.channels := rfl
@[simp] theorem State.setErr_bytesPerSample (x : BitVec 8) : (s.setErr x).bytesPerSample = s.bytesPerSample := rfl
@[simp] theorem State.setErr_tempoMbpm (x : BitVec 8) : (s.setErr x).tempoMbpm = s.tempoMbpm := rfl
@[simp] theorem State.setErr_timesig (x : BitVec 8) : (s.setErr x).timesig = s.timesig := rfl
@[simp] theorem State.setErr_barsBeats (x : BitVec 8) : (s.setErr x).barsBeats = s.barsBeats := rfl
@[simp] theorem State.setErr_totalFrames (x : BitVec 8) : (s.setErr x).totalFrames = s.totalFrames := rfl
@[simp] theorem State.setErr_slices (x : BitVec 8) : (s.setErr x).slices = s.slices := rfl
@[simp] theorem State.setErr_inMem (x : BitVec 8) : (s.setErr x).inMem = s.inMem := rfl
@[simp] theorem State.setErr_outMem (x : BitVec 8) : (s.setErr x).outMem = s.outMem := rfl
@[simp] theorem State.setErr_br (x : BitVec 8) : (s.setErr x).br = s.br := rfl
@[simp] theorem State.setErr_ch0 (x : BitVec 8) : (s.setErr x).ch0 = s.ch0 := rfl
@[simp] theorem State.setErr_ch1 (x : BitVec 8) : (s.setErr x).ch1 = s.ch1 := rfl
@[simp] theorem State.setErr_walker (x : BitVec 8) : (s.setErr x).walker = s.walker := rfl
@[simp] theorem State.setErr_work (x : BitVec 8) : (s.setErr x).work = s.work := rfl
@[simp] theorem State.setErr_host (x : BitVec 8) : (s.setErr x).host = s.host := rfl
@[simp] theorem State.setErr_hostData (x : BitVec 8) : (s.setErr x).hostData = s.hostData := rfl

/-! ## setTrunc -/

@[simp] theorem State.setTrunc_params : (s.setTrunc).params = s.params := rfl
@[simp] theorem State.setTrunc_cmd : (s.setTrunc).cmd = s.cmd := rfl
@[simp] theorem State.setTrunc_status : (s.setTrunc).status = { s.status with trunc := true } := rfl
@[simp] theorem State.setTrunc_inLen : (s.setTrunc).inLen = s.inLen := rfl
@[simp] theorem State.setTrunc_argOff : (s.setTrunc).argOff = s.argOff := rfl
@[simp] theorem State.setTrunc_argLen : (s.setTrunc).argLen = s.argLen := rfl
@[simp] theorem State.setTrunc_argN : (s.setTrunc).argN = s.argN := rfl
@[simp] theorem State.setTrunc_result : (s.setTrunc).result = s.result := rfl
@[simp] theorem State.setTrunc_pcmFrames : (s.setTrunc).pcmFrames = s.pcmFrames := rfl
@[simp] theorem State.setTrunc_decChannels : (s.setTrunc).decChannels = s.decChannels := rfl
@[simp] theorem State.setTrunc_sampleRate : (s.setTrunc).sampleRate = s.sampleRate := rfl
@[simp] theorem State.setTrunc_channels : (s.setTrunc).channels = s.channels := rfl
@[simp] theorem State.setTrunc_bytesPerSample : (s.setTrunc).bytesPerSample = s.bytesPerSample := rfl
@[simp] theorem State.setTrunc_tempoMbpm : (s.setTrunc).tempoMbpm = s.tempoMbpm := rfl
@[simp] theorem State.setTrunc_timesig : (s.setTrunc).timesig = s.timesig := rfl
@[simp] theorem State.setTrunc_barsBeats : (s.setTrunc).barsBeats = s.barsBeats := rfl
@[simp] theorem State.setTrunc_totalFrames : (s.setTrunc).totalFrames = s.totalFrames := rfl
@[simp] theorem State.setTrunc_slices : (s.setTrunc).slices = s.slices := rfl
@[simp] theorem State.setTrunc_inMem : (s.setTrunc).inMem = s.inMem := rfl
@[simp] theorem State.setTrunc_outMem : (s.setTrunc).outMem = s.outMem := rfl
@[simp] theorem State.setTrunc_br : (s.setTrunc).br = s.br := rfl
@[simp] theorem State.setTrunc_ch0 : (s.setTrunc).ch0 = s.ch0 := rfl
@[simp] theorem State.setTrunc_ch1 : (s.setTrunc).ch1 = s.ch1 := rfl
@[simp] theorem State.setTrunc_walker : (s.setTrunc).walker = s.walker := rfl
@[simp] theorem State.setTrunc_work : (s.setTrunc).work = s.work := rfl
@[simp] theorem State.setTrunc_host : (s.setTrunc).host = s.host := rfl
@[simp] theorem State.setTrunc_hostData : (s.setTrunc).hostData = s.hostData := rfl

/-! ## setShort -/

@[simp] theorem State.setShort_params : (s.setShort).params = s.params := rfl
@[simp] theorem State.setShort_cmd : (s.setShort).cmd = s.cmd := rfl
@[simp] theorem State.setShort_status : (s.setShort).status = { s.status with short := true } := rfl
@[simp] theorem State.setShort_inLen : (s.setShort).inLen = s.inLen := rfl
@[simp] theorem State.setShort_argOff : (s.setShort).argOff = s.argOff := rfl
@[simp] theorem State.setShort_argLen : (s.setShort).argLen = s.argLen := rfl
@[simp] theorem State.setShort_argN : (s.setShort).argN = s.argN := rfl
@[simp] theorem State.setShort_result : (s.setShort).result = s.result := rfl
@[simp] theorem State.setShort_pcmFrames : (s.setShort).pcmFrames = s.pcmFrames := rfl
@[simp] theorem State.setShort_decChannels : (s.setShort).decChannels = s.decChannels := rfl
@[simp] theorem State.setShort_sampleRate : (s.setShort).sampleRate = s.sampleRate := rfl
@[simp] theorem State.setShort_channels : (s.setShort).channels = s.channels := rfl
@[simp] theorem State.setShort_bytesPerSample : (s.setShort).bytesPerSample = s.bytesPerSample := rfl
@[simp] theorem State.setShort_tempoMbpm : (s.setShort).tempoMbpm = s.tempoMbpm := rfl
@[simp] theorem State.setShort_timesig : (s.setShort).timesig = s.timesig := rfl
@[simp] theorem State.setShort_barsBeats : (s.setShort).barsBeats = s.barsBeats := rfl
@[simp] theorem State.setShort_totalFrames : (s.setShort).totalFrames = s.totalFrames := rfl
@[simp] theorem State.setShort_slices : (s.setShort).slices = s.slices := rfl
@[simp] theorem State.setShort_inMem : (s.setShort).inMem = s.inMem := rfl
@[simp] theorem State.setShort_outMem : (s.setShort).outMem = s.outMem := rfl
@[simp] theorem State.setShort_br : (s.setShort).br = s.br := rfl
@[simp] theorem State.setShort_ch0 : (s.setShort).ch0 = s.ch0 := rfl
@[simp] theorem State.setShort_ch1 : (s.setShort).ch1 = s.ch1 := rfl
@[simp] theorem State.setShort_walker : (s.setShort).walker = s.walker := rfl
@[simp] theorem State.setShort_work : (s.setShort).work = s.work := rfl
@[simp] theorem State.setShort_host : (s.setShort).host = s.host := rfl
@[simp] theorem State.setShort_hostData : (s.setShort).hostData = s.hostData := rfl

/-! ## setDecoded -/

@[simp] theorem State.setDecoded_params : (s.setDecoded).params = s.params := rfl
@[simp] theorem State.setDecoded_cmd : (s.setDecoded).cmd = s.cmd := rfl
@[simp] theorem State.setDecoded_status : (s.setDecoded).status = { s.status with decoded := true } := rfl
@[simp] theorem State.setDecoded_inLen : (s.setDecoded).inLen = s.inLen := rfl
@[simp] theorem State.setDecoded_argOff : (s.setDecoded).argOff = s.argOff := rfl
@[simp] theorem State.setDecoded_argLen : (s.setDecoded).argLen = s.argLen := rfl
@[simp] theorem State.setDecoded_argN : (s.setDecoded).argN = s.argN := rfl
@[simp] theorem State.setDecoded_result : (s.setDecoded).result = s.result := rfl
@[simp] theorem State.setDecoded_pcmFrames : (s.setDecoded).pcmFrames = s.pcmFrames := rfl
@[simp] theorem State.setDecoded_decChannels : (s.setDecoded).decChannels = s.decChannels := rfl
@[simp] theorem State.setDecoded_sampleRate : (s.setDecoded).sampleRate = s.sampleRate := rfl
@[simp] theorem State.setDecoded_channels : (s.setDecoded).channels = s.channels := rfl
@[simp] theorem State.setDecoded_bytesPerSample : (s.setDecoded).bytesPerSample = s.bytesPerSample := rfl
@[simp] theorem State.setDecoded_tempoMbpm : (s.setDecoded).tempoMbpm = s.tempoMbpm := rfl
@[simp] theorem State.setDecoded_timesig : (s.setDecoded).timesig = s.timesig := rfl
@[simp] theorem State.setDecoded_barsBeats : (s.setDecoded).barsBeats = s.barsBeats := rfl
@[simp] theorem State.setDecoded_totalFrames : (s.setDecoded).totalFrames = s.totalFrames := rfl
@[simp] theorem State.setDecoded_slices : (s.setDecoded).slices = s.slices := rfl
@[simp] theorem State.setDecoded_inMem : (s.setDecoded).inMem = s.inMem := rfl
@[simp] theorem State.setDecoded_outMem : (s.setDecoded).outMem = s.outMem := rfl
@[simp] theorem State.setDecoded_br : (s.setDecoded).br = s.br := rfl
@[simp] theorem State.setDecoded_ch0 : (s.setDecoded).ch0 = s.ch0 := rfl
@[simp] theorem State.setDecoded_ch1 : (s.setDecoded).ch1 = s.ch1 := rfl
@[simp] theorem State.setDecoded_walker : (s.setDecoded).walker = s.walker := rfl
@[simp] theorem State.setDecoded_work : (s.setDecoded).work = s.work := rfl
@[simp] theorem State.setDecoded_host : (s.setDecoded).host = s.host := rfl
@[simp] theorem State.setDecoded_hostData : (s.setDecoded).hostData = s.hostData := rfl

/-! ## clearFlags -/

@[simp] theorem State.clearFlags_params : (s.clearFlags).params = s.params := rfl
@[simp] theorem State.clearFlags_cmd : (s.clearFlags).cmd = s.cmd := rfl
@[simp] theorem State.clearFlags_status : (s.clearFlags).status = { s.status with trunc := false, short := false, decoded := false } := rfl
@[simp] theorem State.clearFlags_inLen : (s.clearFlags).inLen = s.inLen := rfl
@[simp] theorem State.clearFlags_argOff : (s.clearFlags).argOff = s.argOff := rfl
@[simp] theorem State.clearFlags_argLen : (s.clearFlags).argLen = s.argLen := rfl
@[simp] theorem State.clearFlags_argN : (s.clearFlags).argN = s.argN := rfl
@[simp] theorem State.clearFlags_result : (s.clearFlags).result = s.result := rfl
@[simp] theorem State.clearFlags_pcmFrames : (s.clearFlags).pcmFrames = s.pcmFrames := rfl
@[simp] theorem State.clearFlags_decChannels : (s.clearFlags).decChannels = s.decChannels := rfl
@[simp] theorem State.clearFlags_sampleRate : (s.clearFlags).sampleRate = s.sampleRate := rfl
@[simp] theorem State.clearFlags_channels : (s.clearFlags).channels = s.channels := rfl
@[simp] theorem State.clearFlags_bytesPerSample : (s.clearFlags).bytesPerSample = s.bytesPerSample := rfl
@[simp] theorem State.clearFlags_tempoMbpm : (s.clearFlags).tempoMbpm = s.tempoMbpm := rfl
@[simp] theorem State.clearFlags_timesig : (s.clearFlags).timesig = s.timesig := rfl
@[simp] theorem State.clearFlags_barsBeats : (s.clearFlags).barsBeats = s.barsBeats := rfl
@[simp] theorem State.clearFlags_totalFrames : (s.clearFlags).totalFrames = s.totalFrames := rfl
@[simp] theorem State.clearFlags_slices : (s.clearFlags).slices = s.slices := rfl
@[simp] theorem State.clearFlags_inMem : (s.clearFlags).inMem = s.inMem := rfl
@[simp] theorem State.clearFlags_outMem : (s.clearFlags).outMem = s.outMem := rfl
@[simp] theorem State.clearFlags_br : (s.clearFlags).br = s.br := rfl
@[simp] theorem State.clearFlags_ch0 : (s.clearFlags).ch0 = s.ch0 := rfl
@[simp] theorem State.clearFlags_ch1 : (s.clearFlags).ch1 = s.ch1 := rfl
@[simp] theorem State.clearFlags_walker : (s.clearFlags).walker = s.walker := rfl
@[simp] theorem State.clearFlags_work : (s.clearFlags).work = s.work := rfl
@[simp] theorem State.clearFlags_host : (s.clearFlags).host = s.host := rfl
@[simp] theorem State.clearFlags_hostData : (s.clearFlags).hostData = s.hostData := rfl

/-! ## beginCommand -/

@[simp] theorem State.beginCommand_params : (s.beginCommand).params = s.params := rfl
@[simp] theorem State.beginCommand_cmd : (s.beginCommand).cmd = s.cmd := rfl
@[simp] theorem State.beginCommand_status : (s.beginCommand).status = { s.status with state := .busy, err := 0 } := rfl
@[simp] theorem State.beginCommand_inLen : (s.beginCommand).inLen = s.inLen := rfl
@[simp] theorem State.beginCommand_argOff : (s.beginCommand).argOff = s.argOff := rfl
@[simp] theorem State.beginCommand_argLen : (s.beginCommand).argLen = s.argLen := rfl
@[simp] theorem State.beginCommand_argN : (s.beginCommand).argN = s.argN := rfl
@[simp] theorem State.beginCommand_result : (s.beginCommand).result = s.result := rfl
@[simp] theorem State.beginCommand_pcmFrames : (s.beginCommand).pcmFrames = s.pcmFrames := rfl
@[simp] theorem State.beginCommand_decChannels : (s.beginCommand).decChannels = s.decChannels := rfl
@[simp] theorem State.beginCommand_sampleRate : (s.beginCommand).sampleRate = s.sampleRate := rfl
@[simp] theorem State.beginCommand_channels : (s.beginCommand).channels = s.channels := rfl
@[simp] theorem State.beginCommand_bytesPerSample : (s.beginCommand).bytesPerSample = s.bytesPerSample := rfl
@[simp] theorem State.beginCommand_tempoMbpm : (s.beginCommand).tempoMbpm = s.tempoMbpm := rfl
@[simp] theorem State.beginCommand_timesig : (s.beginCommand).timesig = s.timesig := rfl
@[simp] theorem State.beginCommand_barsBeats : (s.beginCommand).barsBeats = s.barsBeats := rfl
@[simp] theorem State.beginCommand_totalFrames : (s.beginCommand).totalFrames = s.totalFrames := rfl
@[simp] theorem State.beginCommand_slices : (s.beginCommand).slices = s.slices := rfl
@[simp] theorem State.beginCommand_inMem : (s.beginCommand).inMem = s.inMem := rfl
@[simp] theorem State.beginCommand_outMem : (s.beginCommand).outMem = s.outMem := rfl
@[simp] theorem State.beginCommand_br : (s.beginCommand).br = s.br := rfl
@[simp] theorem State.beginCommand_ch0 : (s.beginCommand).ch0 = s.ch0 := rfl
@[simp] theorem State.beginCommand_ch1 : (s.beginCommand).ch1 = s.ch1 := rfl
@[simp] theorem State.beginCommand_walker : (s.beginCommand).walker = s.walker := rfl
@[simp] theorem State.beginCommand_work : (s.beginCommand).work = s.work := rfl
@[simp] theorem State.beginCommand_host : (s.beginCommand).host = s.host := rfl
@[simp] theorem State.beginCommand_hostData : (s.beginCommand).hostData = s.hostData := rfl

/-! ## finish -/

@[simp] theorem State.finish_params : (s.finish).params = s.params := rfl
@[simp] theorem State.finish_cmd : (s.finish).cmd = s.cmd := rfl
@[simp] theorem State.finish_status : (s.finish).status = { s.status with state := .done } := rfl
@[simp] theorem State.finish_inLen : (s.finish).inLen = s.inLen := rfl
@[simp] theorem State.finish_argOff : (s.finish).argOff = s.argOff := rfl
@[simp] theorem State.finish_argLen : (s.finish).argLen = s.argLen := rfl
@[simp] theorem State.finish_argN : (s.finish).argN = s.argN := rfl
@[simp] theorem State.finish_result : (s.finish).result = s.result := rfl
@[simp] theorem State.finish_pcmFrames : (s.finish).pcmFrames = s.pcmFrames := rfl
@[simp] theorem State.finish_decChannels : (s.finish).decChannels = s.decChannels := rfl
@[simp] theorem State.finish_sampleRate : (s.finish).sampleRate = s.sampleRate := rfl
@[simp] theorem State.finish_channels : (s.finish).channels = s.channels := rfl
@[simp] theorem State.finish_bytesPerSample : (s.finish).bytesPerSample = s.bytesPerSample := rfl
@[simp] theorem State.finish_tempoMbpm : (s.finish).tempoMbpm = s.tempoMbpm := rfl
@[simp] theorem State.finish_timesig : (s.finish).timesig = s.timesig := rfl
@[simp] theorem State.finish_barsBeats : (s.finish).barsBeats = s.barsBeats := rfl
@[simp] theorem State.finish_totalFrames : (s.finish).totalFrames = s.totalFrames := rfl
@[simp] theorem State.finish_slices : (s.finish).slices = s.slices := rfl
@[simp] theorem State.finish_inMem : (s.finish).inMem = s.inMem := rfl
@[simp] theorem State.finish_outMem : (s.finish).outMem = s.outMem := rfl
@[simp] theorem State.finish_br : (s.finish).br = s.br := rfl
@[simp] theorem State.finish_ch0 : (s.finish).ch0 = s.ch0 := rfl
@[simp] theorem State.finish_ch1 : (s.finish).ch1 = s.ch1 := rfl
@[simp] theorem State.finish_walker : (s.finish).walker = s.walker := rfl
@[simp] theorem State.finish_work : (s.finish).work = s.work := rfl
@[simp] theorem State.finish_host : (s.finish).host = s.host := rfl
@[simp] theorem State.finish_hostData : (s.finish).hostData = s.hostData := rfl

/-! ## raise -/

@[simp] theorem State.raise_params (e : ErrorKind) : (s.raise e).params = s.params := rfl
@[simp] theorem State.raise_cmd (e : ErrorKind) : (s.raise e).cmd = s.cmd := rfl
@[simp] theorem State.raise_status (e : ErrorKind) : (s.raise e).status = { s.status with state := .error, err := e.code } := rfl
@[simp] theorem State.raise_inLen (e : ErrorKind) : (s.raise e).inLen = s.inLen := rfl
@[simp] theorem State.raise_argOff (e : ErrorKind) : (s.raise e).argOff = s.argOff := rfl
@[simp] theorem State.raise_argLen (e : ErrorKind) : (s.raise e).argLen = s.argLen := rfl
@[simp] theorem State.raise_argN (e : ErrorKind) : (s.raise e).argN = s.argN := rfl
@[simp] theorem State.raise_result (e : ErrorKind) : (s.raise e).result = s.result := rfl
@[simp] theorem State.raise_pcmFrames (e : ErrorKind) : (s.raise e).pcmFrames = s.pcmFrames := rfl
@[simp] theorem State.raise_decChannels (e : ErrorKind) : (s.raise e).decChannels = s.decChannels := rfl
@[simp] theorem State.raise_sampleRate (e : ErrorKind) : (s.raise e).sampleRate = s.sampleRate := rfl
@[simp] theorem State.raise_channels (e : ErrorKind) : (s.raise e).channels = s.channels := rfl
@[simp] theorem State.raise_bytesPerSample (e : ErrorKind) : (s.raise e).bytesPerSample = s.bytesPerSample := rfl
@[simp] theorem State.raise_tempoMbpm (e : ErrorKind) : (s.raise e).tempoMbpm = s.tempoMbpm := rfl
@[simp] theorem State.raise_timesig (e : ErrorKind) : (s.raise e).timesig = s.timesig := rfl
@[simp] theorem State.raise_barsBeats (e : ErrorKind) : (s.raise e).barsBeats = s.barsBeats := rfl
@[simp] theorem State.raise_totalFrames (e : ErrorKind) : (s.raise e).totalFrames = s.totalFrames := rfl
@[simp] theorem State.raise_slices (e : ErrorKind) : (s.raise e).slices = s.slices := rfl
@[simp] theorem State.raise_inMem (e : ErrorKind) : (s.raise e).inMem = s.inMem := rfl
@[simp] theorem State.raise_outMem (e : ErrorKind) : (s.raise e).outMem = s.outMem := rfl
@[simp] theorem State.raise_br (e : ErrorKind) : (s.raise e).br = s.br := rfl
@[simp] theorem State.raise_ch0 (e : ErrorKind) : (s.raise e).ch0 = s.ch0 := rfl
@[simp] theorem State.raise_ch1 (e : ErrorKind) : (s.raise e).ch1 = s.ch1 := rfl
@[simp] theorem State.raise_walker (e : ErrorKind) : (s.raise e).walker = s.walker := rfl
@[simp] theorem State.raise_work (e : ErrorKind) : (s.raise e).work = s.work := rfl
@[simp] theorem State.raise_host (e : ErrorKind) : (s.raise e).host = s.host := rfl
@[simp] theorem State.raise_hostData (e : ErrorKind) : (s.raise e).hostData = s.hostData := rfl

/-! ## release -/

@[simp] theorem State.release_params : (s.release).params = s.params := rfl
@[simp] theorem State.release_cmd : (s.release).cmd = s.cmd := rfl
@[simp] theorem State.release_status : (s.release).status = s.status := rfl
@[simp] theorem State.release_inLen : (s.release).inLen = s.inLen := rfl
@[simp] theorem State.release_argOff : (s.release).argOff = s.argOff := rfl
@[simp] theorem State.release_argLen : (s.release).argLen = s.argLen := rfl
@[simp] theorem State.release_argN : (s.release).argN = s.argN := rfl
@[simp] theorem State.release_result : (s.release).result = s.result := rfl
@[simp] theorem State.release_pcmFrames : (s.release).pcmFrames = 0 := rfl
@[simp] theorem State.release_decChannels : (s.release).decChannels = 0 := rfl
@[simp] theorem State.release_sampleRate : (s.release).sampleRate = 0 := rfl
@[simp] theorem State.release_channels : (s.release).channels = 0 := rfl
@[simp] theorem State.release_bytesPerSample : (s.release).bytesPerSample = 0 := rfl
@[simp] theorem State.release_tempoMbpm : (s.release).tempoMbpm = 0 := rfl
@[simp] theorem State.release_timesig : (s.release).timesig = 0 := rfl
@[simp] theorem State.release_barsBeats : (s.release).barsBeats = 0 := rfl
@[simp] theorem State.release_totalFrames : (s.release).totalFrames = 0 := rfl
@[simp] theorem State.release_slices : (s.release).slices = [] := rfl
@[simp] theorem State.release_inMem : (s.release).inMem = s.inMem := rfl
@[simp] theorem State.release_outMem : (s.release).outMem = s.outMem := rfl
@[simp] theorem State.release_br : (s.release).br = s.br := rfl
@[simp] theorem State.release_ch0 : (s.release).ch0 = s.ch0 := rfl
@[simp] theorem State.release_ch1 : (s.release).ch1 = s.ch1 := rfl
@[simp] theorem State.release_walker : (s.release).walker = s.walker := rfl
@[simp] theorem State.release_work : (s.release).work = s.work := rfl
@[simp] theorem State.release_host : (s.release).host = s.host := rfl
@[simp] theorem State.release_hostData : (s.release).hostData = s.hostData := rfl

/-! ## popLevel -/

@[simp] theorem State.popLevel_params : (s.popLevel).params = s.params := rfl
@[simp] theorem State.popLevel_cmd : (s.popLevel).cmd = s.cmd := rfl
@[simp] theorem State.popLevel_status : (s.popLevel).status = s.status := rfl
@[simp] theorem State.popLevel_inLen : (s.popLevel).inLen = s.inLen := rfl
@[simp] theorem State.popLevel_argOff : (s.popLevel).argOff = s.argOff := rfl
@[simp] theorem State.popLevel_argLen : (s.popLevel).argLen = s.argLen := rfl
@[simp] theorem State.popLevel_argN : (s.popLevel).argN = s.argN := rfl
@[simp] theorem State.popLevel_result : (s.popLevel).result = s.result := rfl
@[simp] theorem State.popLevel_pcmFrames : (s.popLevel).pcmFrames = s.pcmFrames := rfl
@[simp] theorem State.popLevel_decChannels : (s.popLevel).decChannels = s.decChannels := rfl
@[simp] theorem State.popLevel_sampleRate : (s.popLevel).sampleRate = s.sampleRate := rfl
@[simp] theorem State.popLevel_channels : (s.popLevel).channels = s.channels := rfl
@[simp] theorem State.popLevel_bytesPerSample : (s.popLevel).bytesPerSample = s.bytesPerSample := rfl
@[simp] theorem State.popLevel_tempoMbpm : (s.popLevel).tempoMbpm = s.tempoMbpm := rfl
@[simp] theorem State.popLevel_timesig : (s.popLevel).timesig = s.timesig := rfl
@[simp] theorem State.popLevel_barsBeats : (s.popLevel).barsBeats = s.barsBeats := rfl
@[simp] theorem State.popLevel_totalFrames : (s.popLevel).totalFrames = s.totalFrames := rfl
@[simp] theorem State.popLevel_slices : (s.popLevel).slices = s.slices := rfl
@[simp] theorem State.popLevel_inMem : (s.popLevel).inMem = s.inMem := rfl
@[simp] theorem State.popLevel_outMem : (s.popLevel).outMem = s.outMem := rfl
@[simp] theorem State.popLevel_br : (s.popLevel).br = s.br := rfl
@[simp] theorem State.popLevel_ch0 : (s.popLevel).ch0 = s.ch0 := rfl
@[simp] theorem State.popLevel_ch1 : (s.popLevel).ch1 = s.ch1 := rfl
@[simp] theorem State.popLevel_walker : (s.popLevel).walker = s.walker.tail := rfl
@[simp] theorem State.popLevel_work : (s.popLevel).work = s.work := rfl
@[simp] theorem State.popLevel_host : (s.popLevel).host = s.host := rfl
@[simp] theorem State.popLevel_hostData : (s.popLevel).hostData = s.hostData := rfl

/-! ## pushLevel -/

@[simp] theorem State.pushLevel_params (a b : Nat) : (s.pushLevel a b).params = s.params := rfl
@[simp] theorem State.pushLevel_cmd (a b : Nat) : (s.pushLevel a b).cmd = s.cmd := rfl
@[simp] theorem State.pushLevel_status (a b : Nat) : (s.pushLevel a b).status = s.status := rfl
@[simp] theorem State.pushLevel_inLen (a b : Nat) : (s.pushLevel a b).inLen = s.inLen := rfl
@[simp] theorem State.pushLevel_argOff (a b : Nat) : (s.pushLevel a b).argOff = s.argOff := rfl
@[simp] theorem State.pushLevel_argLen (a b : Nat) : (s.pushLevel a b).argLen = s.argLen := rfl
@[simp] theorem State.pushLevel_argN (a b : Nat) : (s.pushLevel a b).argN = s.argN := rfl
@[simp] theorem State.pushLevel_result (a b : Nat) : (s.pushLevel a b).result = s.result := rfl
@[simp] theorem State.pushLevel_pcmFrames (a b : Nat) : (s.pushLevel a b).pcmFrames = s.pcmFrames := rfl
@[simp] theorem State.pushLevel_decChannels (a b : Nat) : (s.pushLevel a b).decChannels = s.decChannels := rfl
@[simp] theorem State.pushLevel_sampleRate (a b : Nat) : (s.pushLevel a b).sampleRate = s.sampleRate := rfl
@[simp] theorem State.pushLevel_channels (a b : Nat) : (s.pushLevel a b).channels = s.channels := rfl
@[simp] theorem State.pushLevel_bytesPerSample (a b : Nat) : (s.pushLevel a b).bytesPerSample = s.bytesPerSample := rfl
@[simp] theorem State.pushLevel_tempoMbpm (a b : Nat) : (s.pushLevel a b).tempoMbpm = s.tempoMbpm := rfl
@[simp] theorem State.pushLevel_timesig (a b : Nat) : (s.pushLevel a b).timesig = s.timesig := rfl
@[simp] theorem State.pushLevel_barsBeats (a b : Nat) : (s.pushLevel a b).barsBeats = s.barsBeats := rfl
@[simp] theorem State.pushLevel_totalFrames (a b : Nat) : (s.pushLevel a b).totalFrames = s.totalFrames := rfl
@[simp] theorem State.pushLevel_slices (a b : Nat) : (s.pushLevel a b).slices = s.slices := rfl
@[simp] theorem State.pushLevel_inMem (a b : Nat) : (s.pushLevel a b).inMem = s.inMem := rfl
@[simp] theorem State.pushLevel_outMem (a b : Nat) : (s.pushLevel a b).outMem = s.outMem := rfl
@[simp] theorem State.pushLevel_br (a b : Nat) : (s.pushLevel a b).br = s.br := rfl
@[simp] theorem State.pushLevel_ch0 (a b : Nat) : (s.pushLevel a b).ch0 = s.ch0 := rfl
@[simp] theorem State.pushLevel_ch1 (a b : Nat) : (s.pushLevel a b).ch1 = s.ch1 := rfl
@[simp] theorem State.pushLevel_walker (a b : Nat) : (s.pushLevel a b).walker = { pos := a, stop := b } :: s.walker := rfl
@[simp] theorem State.pushLevel_work (a b : Nat) : (s.pushLevel a b).work = s.work := rfl
@[simp] theorem State.pushLevel_host (a b : Nat) : (s.pushLevel a b).host = s.host := rfl
@[simp] theorem State.pushLevel_hostData (a b : Nat) : (s.pushLevel a b).hostData = s.hostData := rfl

/-! ## advance -/

@[simp] theorem State.advance_params (len : Word) : (s.advance len).params = s.params := by unfold State.advance; split <;> rfl
@[simp] theorem State.advance_cmd (len : Word) : (s.advance len).cmd = s.cmd := by unfold State.advance; split <;> rfl
@[simp] theorem State.advance_status (len : Word) : (s.advance len).status = s.status := by unfold State.advance; split <;> rfl
@[simp] theorem State.advance_inLen (len : Word) : (s.advance len).inLen = s.inLen := by unfold State.advance; split <;> rfl
@[simp] theorem State.advance_argOff (len : Word) : (s.advance len).argOff = s.argOff := by unfold State.advance; split <;> rfl
@[simp] theorem State.advance_argLen (len : Word) : (s.advance len).argLen = s.argLen := by unfold State.advance; split <;> rfl
@[simp] theorem State.advance_argN (len : Word) : (s.advance len).argN = s.argN := by unfold State.advance; split <;> rfl
@[simp] theorem State.advance_result (len : Word) : (s.advance len).result = s.result := by unfold State.advance; split <;> rfl
@[simp] theorem State.advance_pcmFrames (len : Word) : (s.advance len).pcmFrames = s.pcmFrames := by unfold State.advance; split <;> rfl
@[simp] theorem State.advance_decChannels (len : Word) : (s.advance len).decChannels = s.decChannels := by unfold State.advance; split <;> rfl
@[simp] theorem State.advance_sampleRate (len : Word) : (s.advance len).sampleRate = s.sampleRate := by unfold State.advance; split <;> rfl
@[simp] theorem State.advance_channels (len : Word) : (s.advance len).channels = s.channels := by unfold State.advance; split <;> rfl
@[simp] theorem State.advance_bytesPerSample (len : Word) : (s.advance len).bytesPerSample = s.bytesPerSample := by unfold State.advance; split <;> rfl
@[simp] theorem State.advance_tempoMbpm (len : Word) : (s.advance len).tempoMbpm = s.tempoMbpm := by unfold State.advance; split <;> rfl
@[simp] theorem State.advance_timesig (len : Word) : (s.advance len).timesig = s.timesig := by unfold State.advance; split <;> rfl
@[simp] theorem State.advance_barsBeats (len : Word) : (s.advance len).barsBeats = s.barsBeats := by unfold State.advance; split <;> rfl
@[simp] theorem State.advance_totalFrames (len : Word) : (s.advance len).totalFrames = s.totalFrames := by unfold State.advance; split <;> rfl
@[simp] theorem State.advance_slices (len : Word) : (s.advance len).slices = s.slices := by unfold State.advance; split <;> rfl
@[simp] theorem State.advance_inMem (len : Word) : (s.advance len).inMem = s.inMem := by unfold State.advance; split <;> rfl
@[simp] theorem State.advance_outMem (len : Word) : (s.advance len).outMem = s.outMem := by unfold State.advance; split <;> rfl
@[simp] theorem State.advance_br (len : Word) : (s.advance len).br = s.br := by unfold State.advance; split <;> rfl
@[simp] theorem State.advance_ch0 (len : Word) : (s.advance len).ch0 = s.ch0 := by unfold State.advance; split <;> rfl
@[simp] theorem State.advance_ch1 (len : Word) : (s.advance len).ch1 = s.ch1 := by unfold State.advance; split <;> rfl
@[simp] theorem State.advance_work (len : Word) : (s.advance len).work = s.work := by unfold State.advance; split <;> rfl
@[simp] theorem State.advance_host (len : Word) : (s.advance len).host = s.host := by unfold State.advance; split <;> rfl
@[simp] theorem State.advance_hostData (len : Word) : (s.advance len).hostData = s.hostData := by unfold State.advance; split <;> rfl

/-! ## setChan -/

@[simp] theorem State.setChan_params (c : Chan) (x : Channel) : (s.setChan c x).params = s.params := by cases c <;> rfl
@[simp] theorem State.setChan_cmd (c : Chan) (x : Channel) : (s.setChan c x).cmd = s.cmd := by cases c <;> rfl
@[simp] theorem State.setChan_status (c : Chan) (x : Channel) : (s.setChan c x).status = s.status := by cases c <;> rfl
@[simp] theorem State.setChan_inLen (c : Chan) (x : Channel) : (s.setChan c x).inLen = s.inLen := by cases c <;> rfl
@[simp] theorem State.setChan_argOff (c : Chan) (x : Channel) : (s.setChan c x).argOff = s.argOff := by cases c <;> rfl
@[simp] theorem State.setChan_argLen (c : Chan) (x : Channel) : (s.setChan c x).argLen = s.argLen := by cases c <;> rfl
@[simp] theorem State.setChan_argN (c : Chan) (x : Channel) : (s.setChan c x).argN = s.argN := by cases c <;> rfl
@[simp] theorem State.setChan_result (c : Chan) (x : Channel) : (s.setChan c x).result = s.result := by cases c <;> rfl
@[simp] theorem State.setChan_pcmFrames (c : Chan) (x : Channel) : (s.setChan c x).pcmFrames = s.pcmFrames := by cases c <;> rfl
@[simp] theorem State.setChan_decChannels (c : Chan) (x : Channel) : (s.setChan c x).decChannels = s.decChannels := by cases c <;> rfl
@[simp] theorem State.setChan_sampleRate (c : Chan) (x : Channel) : (s.setChan c x).sampleRate = s.sampleRate := by cases c <;> rfl
@[simp] theorem State.setChan_channels (c : Chan) (x : Channel) : (s.setChan c x).channels = s.channels := by cases c <;> rfl
@[simp] theorem State.setChan_bytesPerSample (c : Chan) (x : Channel) : (s.setChan c x).bytesPerSample = s.bytesPerSample := by cases c <;> rfl
@[simp] theorem State.setChan_tempoMbpm (c : Chan) (x : Channel) : (s.setChan c x).tempoMbpm = s.tempoMbpm := by cases c <;> rfl
@[simp] theorem State.setChan_timesig (c : Chan) (x : Channel) : (s.setChan c x).timesig = s.timesig := by cases c <;> rfl
@[simp] theorem State.setChan_barsBeats (c : Chan) (x : Channel) : (s.setChan c x).barsBeats = s.barsBeats := by cases c <;> rfl
@[simp] theorem State.setChan_totalFrames (c : Chan) (x : Channel) : (s.setChan c x).totalFrames = s.totalFrames := by cases c <;> rfl
@[simp] theorem State.setChan_slices (c : Chan) (x : Channel) : (s.setChan c x).slices = s.slices := by cases c <;> rfl
@[simp] theorem State.setChan_inMem (c : Chan) (x : Channel) : (s.setChan c x).inMem = s.inMem := by cases c <;> rfl
@[simp] theorem State.setChan_outMem (c : Chan) (x : Channel) : (s.setChan c x).outMem = s.outMem := by cases c <;> rfl
@[simp] theorem State.setChan_br (c : Chan) (x : Channel) : (s.setChan c x).br = s.br := by cases c <;> rfl
@[simp] theorem State.setChan_walker (c : Chan) (x : Channel) : (s.setChan c x).walker = s.walker := by cases c <;> rfl
@[simp] theorem State.setChan_work (c : Chan) (x : Channel) : (s.setChan c x).work = s.work := by cases c <;> rfl
@[simp] theorem State.setChan_host (c : Chan) (x : Channel) : (s.setChan c x).host = s.host := by cases c <;> rfl
@[simp] theorem State.setChan_hostData (c : Chan) (x : Channel) : (s.setChan c x).hostData = s.hostData := by cases c <;> rfl

@[simp] theorem State.setChan_ch0 (x : Channel) : (s.setChan .c0 x).ch0 = x := rfl
@[simp] theorem State.setChan_c0_ch1 (x : Channel) : (s.setChan .c0 x).ch1 = s.ch1 := rfl
@[simp] theorem State.setChan_ch1 (x : Channel) : (s.setChan .c1 x).ch1 = x := rfl
@[simp] theorem State.setChan_c1_ch0 (x : Channel) : (s.setChan .c1 x).ch0 = s.ch0 := rfl
@[simp] theorem State.chan_c0 : s.chan .c0 = s.ch0 := rfl
@[simp] theorem State.chan_c1 : s.chan .c1 = s.ch1 := rfl
@[simp] theorem State.chan_setChan (c : Chan) (x : Channel) : (s.setChan c x).chan c = x := by cases c <;> rfl
@[simp] theorem State.setChan_chan (c : Chan) : s.setChan c (s.chan c) = s := by cases c <;> rfl
@[simp] theorem State.setChan_setChan (c : Chan) (x y : Channel) : (s.setChan c x).setChan c y = s.setChan c y := by
  cases c <;> rfl
theorem State.advance_walker (len : Word) (l : Level) (rest : List Level) (h : s.walker = l :: rest) :
    (s.advance len).walker = { l with pos := l.pos + chunkSize len } :: rest := by
  simp [State.advance, h]

/-! ## writeArgReg -/

@[simp] theorem State.writeArgReg_params (off : Nat) (v : Word) : (s.writeArgReg off v).params = s.params := by
  unfold State.writeArgReg; split_ifs <;> rfl
@[simp] theorem State.writeArgReg_cmd (off : Nat) (v : Word) : (s.writeArgReg off v).cmd = s.cmd := by
  unfold State.writeArgReg; split_ifs <;> rfl
@[simp] theorem State.writeArgReg_status (off : Nat) (v : Word) : (s.writeArgReg off v).status = s.status := by
  unfold State.writeArgReg; split_ifs <;> rfl
@[simp] theorem State.writeArgReg_result (off : Nat) (v : Word) : (s.writeArgReg off v).result = s.result := by
  unfold State.writeArgReg; split_ifs <;> rfl
@[simp] theorem State.writeArgReg_pcmFrames (off : Nat) (v : Word) : (s.writeArgReg off v).pcmFrames = s.pcmFrames := by
  unfold State.writeArgReg; split_ifs <;> rfl
@[simp] theorem State.writeArgReg_decChannels (off : Nat) (v : Word) : (s.writeArgReg off v).decChannels = s.decChannels := by
  unfold State.writeArgReg; split_ifs <;> rfl
@[simp] theorem State.writeArgReg_sampleRate (off : Nat) (v : Word) : (s.writeArgReg off v).sampleRate = s.sampleRate := by
  unfold State.writeArgReg; split_ifs <;> rfl
@[simp] theorem State.writeArgReg_channels (off : Nat) (v : Word) : (s.writeArgReg off v).channels = s.channels := by
  unfold State.writeArgReg; split_ifs <;> rfl
@[simp] theorem State.writeArgReg_bytesPerSample (off : Nat) (v : Word) : (s.writeArgReg off v).bytesPerSample = s.bytesPerSample := by
  unfold State.writeArgReg; split_ifs <;> rfl
@[simp] theorem State.writeArgReg_tempoMbpm (off : Nat) (v : Word) : (s.writeArgReg off v).tempoMbpm = s.tempoMbpm := by
  unfold State.writeArgReg; split_ifs <;> rfl
@[simp] theorem State.writeArgReg_timesig (off : Nat) (v : Word) : (s.writeArgReg off v).timesig = s.timesig := by
  unfold State.writeArgReg; split_ifs <;> rfl
@[simp] theorem State.writeArgReg_barsBeats (off : Nat) (v : Word) : (s.writeArgReg off v).barsBeats = s.barsBeats := by
  unfold State.writeArgReg; split_ifs <;> rfl
@[simp] theorem State.writeArgReg_totalFrames (off : Nat) (v : Word) : (s.writeArgReg off v).totalFrames = s.totalFrames := by
  unfold State.writeArgReg; split_ifs <;> rfl
@[simp] theorem State.writeArgReg_slices (off : Nat) (v : Word) : (s.writeArgReg off v).slices = s.slices := by
  unfold State.writeArgReg; split_ifs <;> rfl
@[simp] theorem State.writeArgReg_inMem (off : Nat) (v : Word) : (s.writeArgReg off v).inMem = s.inMem := by
  unfold State.writeArgReg; split_ifs <;> rfl
@[simp] theorem State.writeArgReg_outMem (off : Nat) (v : Word) : (s.writeArgReg off v).outMem = s.outMem := by
  unfold State.writeArgReg; split_ifs <;> rfl
@[simp] theorem State.writeArgReg_br (off : Nat) (v : Word) : (s.writeArgReg off v).br = s.br := by
  unfold State.writeArgReg; split_ifs <;> rfl
@[simp] theorem State.writeArgReg_ch0 (off : Nat) (v : Word) : (s.writeArgReg off v).ch0 = s.ch0 := by
  unfold State.writeArgReg; split_ifs <;> rfl
@[simp] theorem State.writeArgReg_ch1 (off : Nat) (v : Word) : (s.writeArgReg off v).ch1 = s.ch1 := by
  unfold State.writeArgReg; split_ifs <;> rfl
@[simp] theorem State.writeArgReg_walker (off : Nat) (v : Word) : (s.writeArgReg off v).walker = s.walker := by
  unfold State.writeArgReg; split_ifs <;> rfl
@[simp] theorem State.writeArgReg_work (off : Nat) (v : Word) : (s.writeArgReg off v).work = s.work := by
  unfold State.writeArgReg; split_ifs <;> rfl
@[simp] theorem State.writeArgReg_host (off : Nat) (v : Word) : (s.writeArgReg off v).host = s.host := by
  unfold State.writeArgReg; split_ifs <;> rfl
@[simp] theorem State.writeArgReg_hostData (off : Nat) (v : Word) : (s.writeArgReg off v).hostData = s.hostData := by
  unfold State.writeArgReg; split_ifs <;> rfl

@[simp] theorem State.writeArgReg_of_not (off : Nat) (v : Word) (h : isArgReg off = false) : s.writeArgReg off v = s := by
  simp only [isArgReg, Bool.or_eq_false_iff, beq_eq_false_iff_ne] at h
  simp [State.writeArgReg, h]


end Sys2Proof.Machine
end

