-- ==== Sys2Proof/Laws/Reader.lean ====
section
/-! SUPPORT. What reading bits, decoding a sample and running a stream can do, said once for each. -/

namespace Sys2Proof.Machine

/-! ## Bits -/

@[simp] theorem readBit_fst (m : Memory 8) (br : BitReader) : (readBit m br).1 = currentBit m br := rfl

@[simp] theorem readBit_snd (m : Memory 8) (br : BitReader) : (readBit m br).2 = { br with pos := br.pos + 1 } := rfl

/-- Reading bits moves the position and nothing else. -/
@[simp] theorem readBits_snd (m : Memory 8) (br : BitReader) (n : Nat) :
    (readBits m br n).2 = { br with pos := br.pos + n } := by
  induction n with
  | zero => rfl
  | succ n ih => simp [readBits, ih, Nat.add_assoc]

/-- The position only grows, and the slice stays. -/
def ReadsOn (br br' : BitReader) : Prop := br'.base = br.base ∧ br'.len = br.len ∧ br.pos ≤ br'.pos

theorem ReadsOn.refl (br : BitReader) : ReadsOn br br := ⟨rfl, rfl, le_rfl⟩

theorem ReadsOn.trans {a b c : BitReader} (h1 : ReadsOn a b) (h2 : ReadsOn b c) : ReadsOn a c :=
  ⟨h2.1.trans h1.1, h2.2.1.trans h1.2.1, h1.2.2.trans h2.2.2⟩

theorem ReadsOn.forward (br : BitReader) (n : Nat) : ReadsOn br { br with pos := br.pos + n } :=
  ⟨rfl, rfl, Nat.le_add_right _ _⟩

/-! ## A sample -/

theorem unaryLoop_reads (m : Memory 8) (n : Nat) (u : UnaryRegs) (br : BitReader) :
    ReadsOn br (unaryLoop m n u br).2 := by
  induction n generalizing u br with
  | zero => exact ReadsOn.refl br
  | succ n ih =>
    have hstep := ReadsOn.forward br 1
    unfold unaryLoop
    split
    next br' h =>
      have : br' = { br with pos := br.pos + 1 } := by rw [← readBit_snd m br, h]
      exact this ▸ hstep
    next br' h =>
      have : br' = { br with pos := br.pos + 1 } := by rw [← readBit_snd m br, h]
      exact (this ▸ hstep).trans (ih _ _)

theorem readRemainder_reads (m : Memory 8) (cs r : Word) (nb : Int) (br : BitReader) :
    ReadsOn br (readRemainder m cs r nb br).2 := by
  have h1 := ReadsOn.forward br nb.toNat
  unfold readRemainder
  simp only [readBits_snd]
  split_ifs
  · exact h1
  · exact h1.trans (ReadsOn.forward _ 1)

theorem rangeDecode_reads (m : Memory 8) (rv : Word) (ba : Int) (u : UnaryRegs) (br : BitReader) :
    ReadsOn br (rangeDecode m rv ba u br).2 := by
  unfold rangeDecode
  split
  · exact ReadsOn.refl br
  · exact readRemainder_reads _ _ _ _ _

/-- A sample fails, or completes on a live channel; either way its reader only reads on. -/
theorem sample_cases (m : Memory 8) (cap : Nat) (ch : Channel) (br : BitReader) :
    (∃ br', sample m cap ch br = failSample ch br' ∧ ReadsOn br br' ∧ (ch.dead = true → br' = br)) ∨
      (∃ r br', ch.dead = false ∧ sample m cap ch br = completeSample ch r br' ∧ ReadsOn br br') := by
  unfold sample
  split_ifs with hd
  · exact .inl ⟨br, rfl, ReadsOn.refl br, fun _ => rfl⟩
  · have hu := unaryLoop_reads m cap (unaryStart ch.e) br
    split
    next br1 h =>
      rw [h] at hu
      exact .inl ⟨br1, rfl, hu, fun h => absurd h hd⟩
    next u br1 h =>
      rw [h] at hu
      have hr := rangeDecode_reads m ch.rv ch.ba u br1
      split
      next br2 h2 =>
        rw [h2] at hr
        exact .inl ⟨br2, rfl, hu.trans hr, fun h => absurd h hd⟩
      next r br2 h2 =>
        rw [h2] at hr
        exact .inr ⟨r, br2, by simpa using hd, rfl, hu.trans hr⟩

@[simp] theorem failSample_out (ch : Channel) (br : BitReader) : (failSample ch br).out = none := rfl
@[simp] theorem failSample_reader (ch : Channel) (br : BitReader) : (failSample ch br).reader = br := rfl
@[simp] theorem failSample_chan (ch : Channel) (br : BitReader) : (failSample ch br).chan = { ch with dead := true } := rfl
@[simp] theorem completeSample_reader (ch : Channel) (r : RangeOut) (br : BitReader) :
    (completeSample ch r br).reader = br := by
  simp only [completeSample]
@[simp] theorem completeSample_dead (ch : Channel) (r : RangeOut) (br : BitReader) :
    (completeSample ch r br).chan.dead = ch.dead := by
  simp only [completeSample]
@[simp] theorem completeSample_rv (ch : Channel) (r : RangeOut) (br : BitReader) :
    (completeSample ch r br).chan.rv = r.rv := by
  simp only [completeSample]
@[simp] theorem completeSample_ba (ch : Channel) (r : RangeOut) (br : BitReader) :
    (completeSample ch r br).chan.ba = r.ba := by
  simp only [completeSample]

theorem sample_reads (m : Memory 8) (cap : Nat) (ch : Channel) (br : BitReader) :
    ReadsOn br (sample m cap ch br).reader := by
  rcases sample_cases m cap ch br with ⟨br', h, hr, -⟩ | ⟨r, br', -, h, hr⟩
  · rw [h]; exact hr
  · rw [h]; exact hr

/-! ## A stream -/

/-- The mono loop counts no more frames than asked for, leaves the right channel alone and keeps OUT canonical. -/
theorem monoLoop_spec (m : Memory 8) (cap k n : Nat) (r : StreamRegs) :
    n ≤ (monoLoop m cap k n r).1 ∧ (monoLoop m cap k n r).1 ≤ n + k ∧ (monoLoop m cap k n r).2.ch1 = r.ch1 ∧
      ReadsOn r.br (monoLoop m cap k n r).2.br ∧
      (Memory.wf r.out → Memory.wf (monoLoop m cap k n r).2.out) := by
  induction k generalizing n r with
  | zero => exact ⟨le_rfl, le_rfl, rfl, ReadsOn.refl _, id⟩
  | succ k ih =>
    have hs := sample_reads m cap r.ch0 r.br
    unfold monoLoop
    split
    next br ch h =>
      rw [h] at hs
      exact ⟨le_rfl, Nat.le_add_right _ _, rfl, hs, id⟩
    next br ch v h =>
      rw [h] at hs
      obtain ⟨h1, h2, h3, h4, h5⟩ := ih (n + 1) { r with br := br, ch0 := ch, out := memWrite r.out n v }
      exact ⟨by omega, by omega, h3, hs.trans h4, fun hw => h5 (Memory.write_wf hw n v)⟩

/-- The stereo loop counts no more frames than asked for and keeps OUT canonical. -/
theorem stereoLoop_spec (m : Memory 8) (cap k n : Nat) (r : StreamRegs) :
    n ≤ (stereoLoop m cap k n r).1 ∧ (stereoLoop m cap k n r).1 ≤ n + k ∧
      ReadsOn r.br (stereoLoop m cap k n r).2.br ∧
      (Memory.wf r.out → Memory.wf (stereoLoop m cap k n r).2.out) := by
  induction k generalizing n r with
  | zero => exact ⟨le_rfl, le_rfl, ReadsOn.refl _, id⟩
  | succ k ih =>
    have hs := sample_reads m cap r.ch0 r.br
    unfold stereoLoop
    split
    next br ch h =>
      rw [h] at hs
      exact ⟨le_rfl, Nat.le_add_right _ _, hs, id⟩
    next br ch0 l h =>
      rw [h] at hs
      have hs2 := sample_reads m cap r.ch1 br
      split
      next br' ch1 h2 =>
        rw [h2] at hs2
        exact ⟨le_rfl, Nat.le_add_right _ _, hs.trans hs2, id⟩
      next br' ch1 dl h2 =>
        rw [h2] at hs2
        obtain ⟨h3, h4, h5, h6⟩ := ih (n + 1)
          { br := br', ch0 := ch0, ch1 := ch1,
            out := memWrite (memWrite r.out (2 * n) l) (2 * n + 1) (rightSample l dl) }
        exact ⟨by omega, by omega, (hs.trans hs2).trans h5,
          fun hw => h6 (Memory.write_wf (Memory.write_wf hw _ l) _ _)⟩

/-- A stream replaces the reader, the channels and OUT, may set `SHORT`, and changes nothing else; it counts at most the
frames asked for. -/
theorem stream_cases (s : State) (off len ch n : Nat) :
    (stream s off len ch n).1 ≤ n ∧
      ∃ br ch0 ch1 out,
        br.base = off ∧ br.len = len ∧ (Memory.wf s.outMem → Memory.wf out) ∧
        (stream s off len ch n).2 =
          { s with
            br := br, ch0 := ch0, ch1 := ch1, outMem := out
            status := { s.status with short := s.status.short || decide ((stream s off len ch n).1 < n) } } := by
  have key : ∀ (count : Nat) (r : StreamRegs), r.br.base = off → r.br.len = len →
      (Memory.wf s.outMem → Memory.wf r.out) → count ≤ n →
      ∃ br ch0 ch1 out, br.base = off ∧ br.len = len ∧ (Memory.wf s.outMem → Memory.wf out) ∧
        (if count < n then State.setShort { s with br := r.br, ch0 := r.ch0, ch1 := r.ch1, outMem := r.out }
          else { s with br := r.br, ch0 := r.ch0, ch1 := r.ch1, outMem := r.out }) =
        { s with
          br := br, ch0 := ch0, ch1 := ch1, outMem := out
          status := { s.status with short := s.status.short || decide (count < n) } } := by
    intro count r hb hl hw _
    refine ⟨r.br, r.ch0, r.ch1, r.out, hb, hl, hw, ?_⟩
    split_ifs with hc
    · simp [State.setShort, hc]
    · simp [hc]
  unfold stream
  by_cases hch : ch = 1
  · obtain ⟨-, h2, -, ⟨h4, h4', -⟩, h5⟩ := monoLoop_spec s.inMem s.params.unaryCap n 0
      { br := bindReader off len, ch0 := initChannel, ch1 := initChannel, out := s.outMem }
    simp only [hch, if_true]
    exact ⟨by omega, key _ _ h4 h4' h5 (by omega)⟩
  · obtain ⟨-, h2, ⟨h4, h4', -⟩, h5⟩ := stereoLoop_spec s.inMem s.params.unaryCap n 0
      { br := bindReader off len, ch0 := initChannel, ch1 := initChannel, out := s.outMem }
    simp only [hch, if_false]
    exact ⟨by omega, key _ _ h4 h4' h5 (by omega)⟩

end Sys2Proof.Machine
end

