-- ==== Sys2Proof/Laws/Commands.lean ====
section
/-! SUPPORT. What the shared operations of commands, chunks and host accesses can do, said once for each. -/

namespace Sys2Proof.Machine

/-! ## Ending a command -/

@[simp] theorem endCommand_ok (s : State) : endCommand (.ok s) = s.finish := rfl
@[simp] theorem endCommand_raised (e : ErrorKind) (s : State) : endCommand (.raised e s) = s.raise e := rfl
@[simp] theorem endParse_ok (s : State) : endParse (.ok s) = s.finish := rfl
@[simp] theorem endParse_raised (e : ErrorKind) (s : State) :
    endParse (.raised e s) = ({ s with walker := [] }.release).raise e := rfl

/-- A command ends DONE or ERROR. -/
theorem endCommand_state (r : CmdResult) :
    (endCommand r).status.state = .done ∨ (endCommand r).status.state = .error := by
  cases r <;> simp

/-- PARSE ends DONE or ERROR. -/
theorem endParse_state (r : CmdResult) :
    (endParse r).status.state = .done ∨ (endParse r).status.state = .error := by
  cases r <;> simp

/-! ## Channels -/

/-- CH_DECODE_SAMPLE ends with a sample or raises `Corrupt`; either way only the channel, the reader and `RESULT` differ. -/
theorem chDecodeBody_cases (c : Chan) (s : State) :
    (∃ ch br v, chDecodeBody c s = .ok { (s.setChan c ch) with br := br, result := sampleResult v } ∧ ReadsOn s.br br) ∨
      (∃ br, chDecodeBody c s = .raised .corrupt { (s.setChan c { s.chan c with dead := true }) with br := br } ∧
        ReadsOn s.br br) := by
  unfold chDecodeBody
  rcases sample_cases s.inMem s.params.unaryCap (s.chan c) s.br with ⟨br', h, hr, -⟩ | ⟨r, br', -, h, hr⟩
  · exact .inr ⟨br', by rw [h]; rfl, hr⟩
  · refine .inl ⟨(completeSample (s.chan c) r br').chan, br',
      emitSample (predict (energyIndex (s.chan c).e) (s.chan c).s r.d), ?_, hr⟩
    rw [h]
    simp only [completeSample]

/-- An operand byte names a channel exactly when it is 0 or 1. -/
theorem chanOf_eq_none_iff (c : Byte) : chanOf c = none ↔ 1 < c.toNat := by
  revert c; decide +kernel

/-! ## Chunks -/

/-- A chunk instruction that answers a next state ran its handler on the payload at the cursor, which lies in IN. -/
theorem withPayload_next {len : Word} {s t : State} {handler : Nat → State} :
    withPayload len s handler = .next t ↔
      ∃ l rest, s.walker = l :: rest ∧ l.pos + 8 + len.toNat ≤ s.params.inSize ∧ t = handler (l.pos + 8) := by
  unfold withPayload State.payload?
  cases h : s.walker with
  | nil => simp
  | cons l rest =>
    by_cases hle : l.pos + 8 + len.toNat ≤ s.params.inSize
    · simp [hle, eq_comm]
    · simp [hle]

theorem withPayload_not_refused {len : Word} {s : State} {handler : Nat → State} {r : Refusal} :
    withPayload len s handler ≠ .refused r := by
  unfold withPayload
  split
  · simp
  · split_ifs <;> simp

/-- What a field extractor leaves alone: everything but the metadata registers and the slice table. -/
def SameButFields (s t : State) : Prop :=
  t = { s with
    sampleRate := t.sampleRate, channels := t.channels, bytesPerSample := t.bytesPerSample
    tempoMbpm := t.tempoMbpm, timesig := t.timesig, barsBeats := t.barsBeats, totalFrames := t.totalFrames
    slices := t.slices }

theorem globStep_frame (pl : Nat) (len : Word) (s : State) : SameButFields s (globStep pl len s) := by
  unfold SameButFields globStep
  split_ifs <;> rfl

theorem headStep_frame (pl : Nat) (len : Word) (s : State) : SameButFields s (headStep pl len s) := by
  unfold SameButFields headStep
  split_ifs <;> rfl

theorem sinfStep_frame (pl : Nat) (len : Word) (s : State) : SameButFields s (sinfStep pl len s) := by
  unfold SameButFields sinfStep
  split <;> rfl

/-- A slice descriptor is appended, or nothing changes. -/
theorem slceStep_cases (pl : Nat) (len : Word) (s : State) :
    slceStep pl len s = s ∨
      (s.slices.length < s.params.maxSlices ∧
        ∃ x : Slice, 1 < x.len.toNat ∧ slceStep pl len s = { s with slices := s.slices ++ [x] }) := by
  unfold slceStep
  dsimp only
  split_ifs with h1 h2 h3
  · exact .inl rfl
  · exact .inl rfl
  · exact .inl rfl
  · exact .inr ⟨by omega, _, by simpa using h2, rfl⟩

/-- The SDAT step sets the latch and may set `DEC_CHANNELS`, `PCM_FRAMES`, `SHORT`, the reader, the channels and OUT. -/
def SameButDecode (s t : State) : Prop :=
  t = { s with
    status := { s.status with decoded := true, short := t.status.short }
    decChannels := t.decChannels, pcmFrames := t.pcmFrames, br := t.br, ch0 := t.ch0, ch1 := t.ch1, outMem := t.outMem }

/-- How the SDAT step ends: a decode, or one of the three errors R224 raises. -/
theorem sdatDecode_cases (pl : Nat) (len : Word) (s : State) :
    (∃ t, sdatDecode pl len s = .ok t ∧ SameButDecode s t) ∨
      (∃ e t, sdatDecode pl len s = .raised e t ∧ SameButDecode s t ∧ (e = .corrupt ∨ e = .oversize ∨ e = .outOfMemory)) := by
  unfold sdatDecode
  dsimp only
  split_ifs with h1 h2 h3 h4
  · exact .inr ⟨_, _, rfl, rfl, .inl rfl⟩
  · exact .inr ⟨_, _, rfl, rfl, .inr (.inl rfl)⟩
  · exact .inr ⟨_, _, rfl, rfl, .inr (.inr rfl)⟩
  · obtain ⟨-, br, ch0, ch1, out, -, -, -, h⟩ := stream_cases
      { s.setDecoded with decChannels := s.setDecoded.channels } pl len.toNat s.setDecoded.channels.toNat
      (framesWanted { s.setDecoded with decChannels := s.setDecoded.channels } len).1
    refine .inr ⟨_, _, rfl, ?_, .inl rfl⟩
    rw [h]
    rfl
  · obtain ⟨-, br, ch0, ch1, out, -, -, -, h⟩ := stream_cases
      { s.setDecoded with decChannels := s.setDecoded.channels } pl len.toNat s.setDecoded.channels.toNat
      (framesWanted { s.setDecoded with decChannels := s.setDecoded.channels } len).1
    refine .inl ⟨_, rfl, ?_⟩
    rw [h]
    rfl

/-- What the header at a level's cursor can be. -/
theorem headerAt_chunk {s : State} {l : Level} {tag len : Word} (h : s.headerAt l = .chunk tag len) :
    l.pos + 8 + len.toNat ≤ l.stop ∧ tag = s.tagAt l.pos ∧ len = s.lenAt l.pos := by
  unfold State.headerAt at h
  split_ifs at h with h1 h2
  injection h with ht hl
  subst ht hl
  exact ⟨by omega, rfl, rfl⟩

/-- The decoder's instruction for a tag is one of the seven chunk instructions. -/
theorem decodeChunk_cases (tag len : Word) :
    (tag = tagCat ∧ decodeChunk tag len = .cat len) ∨ (tag = tagGlob ∧ decodeChunk tag len = .glob len) ∨
      (tag = tagHead ∧ decodeChunk tag len = .head len) ∨ (tag = tagSinf ∧ decodeChunk tag len = .sinf len) ∨
      (tag = tagSlce ∧ decodeChunk tag len = .slce len) ∨ (tag = tagSdat ∧ decodeChunk tag len = .sdat len) ∨
      (tag ∉ knownTags ∧ decodeChunk tag len = .unknownTag tag len) := by
  unfold decodeChunk
  split_ifs <;> simp_all

/-! ## Host accesses -/

/-- The host's access between commands: what each kind does when it is not busy. -/
theorem hostAccess_cases {a : HostAccess} {s t : State} (hb : s.status.state ≠ .busy) (h : hostAccess a s = .next t) :
    (∃ addr b, a = .writeIn addr b ∧ addr < s.params.inSize ∧ t = { s with inMem := Memory.write s.inMem addr b }) ∨
      (∃ v, a = .writeReg 0 v ∧ issueCommand v s = .next t) ∨
      (∃ off v, off ≠ 0 ∧ a = .writeReg off v ∧ t = s.writeArgReg off v) ∨
      (∃ off, a = .readReg off ∧ t = { s with hostData := s.readReg off }) ∨
      (∃ i, a = .readOut i ∧ i < s.params.outSize ∧
        t = { s with hostData := (Memory.read s.outMem i).signExtend 32 }) := by
  cases a with
  | writeIn addr b =>
    simp only [hostAccess, hb, if_false] at h
    split_ifs at h with h1
    · injection h with h
      exact .inl ⟨addr, b, rfl, by omega, h.symm⟩
  | writeReg off v =>
    simp only [hostAccess] at h
    split_ifs at h with h1 h2
    · subst h1
      exact .inr (.inl ⟨v, rfl, h⟩)
    · injection h with h
      exact .inr (.inr (.inl ⟨off, v, h1, rfl, h.symm⟩))
  | readReg off =>
    injection h with h
    exact .inr (.inr (.inr (.inl ⟨off, rfl, h.symm⟩)))
  | readOut i =>
    simp only [hostAccess] at h
    split_ifs at h with h1
    · injection h with h
      exact .inr (.inr (.inr (.inr ⟨i, rfl, by omega, h.symm⟩)))

/-- A write of `CMD` while not busy runs the decoded instruction, or raises `BadCommand`. -/
theorem issueCommand_cases {w : Word} {s : State} (hb : s.status.state ≠ .busy) :
    (∃ i, decodeCommand w = .ok i ∧ issueCommand w s = exec i { s with cmd := w }) ∨
      (∃ e, decodeCommand w = .error e ∧
        issueCommand w s = .next (({ s with cmd := w }.beginCommand).raise .badCommand)) := by
  unfold issueCommand
  rw [if_neg hb]
  cases h : decodeCommand w with
  | ok i => exact .inl ⟨i, rfl, rfl⟩
  | error e => exact .inr ⟨e, rfl, rfl⟩

end Sys2Proof.Machine
end

