-- ==== Sys2Proof/Laws/PerInstr.lean ====
section
/-! SUPPORT. Statements about every instruction as syntax, one lemma a constructor. -/

namespace Sys2Proof.Laws.EncodesInRange

/-- An instruction's code has no bits above its format's width. -/
def Statement (i : Instr) : Prop := (encode i).bits.toNat < 2 ^ (encode i).format.width

theorem command_in_range (opc opd : Byte) :
    (commandCode opc opd).bits.toNat < 2 ^ (commandCode opc opd).format.width := by
  have h : (opd ++ opc).toNat < 2 ^ 16 := (opd ++ opc).isLt
  simp only [commandCode, Format.width, BitVec.toNat_setWidth]
  exact lt_of_le_of_lt (Nat.mod_le _ _) (lt_trans h (by norm_num))

theorem chunk_in_range (tag len : Word) : (chunkCode tag len).bits.toNat < 2 ^ (chunkCode tag len).format.width :=
  (tag ++ len).isLt

theorem parse : Statement .parse := command_in_range _ _
theorem destroy : Statement .destroy := command_in_range _ _
theorem decodeMono : Statement .decodeMono := command_in_range _ _
theorem decodeStereo : Statement .decodeStereo := command_in_range _ _
theorem brInit : Statement .brInit := command_in_range _ _
theorem brReadBit : Statement .brReadBit := command_in_range _ _
theorem brReadBits (n : Byte) : Statement (.brReadBits n) := command_in_range _ _
theorem chInit (c : Byte) : Statement (.chInit c) := command_in_range _ _
theorem chDecodeSample (c : Byte) : Statement (.chDecodeSample c) := command_in_range _ _
theorem cat (len : Word) : Statement (.cat len) := chunk_in_range _ _
theorem glob (len : Word) : Statement (.glob len) := chunk_in_range _ _
theorem head (len : Word) : Statement (.head len) := chunk_in_range _ _
theorem sinf (len : Word) : Statement (.sinf len) := chunk_in_range _ _
theorem slce (len : Word) : Statement (.slce len) := chunk_in_range _ _
theorem sdat (len : Word) : Statement (.sdat len) := chunk_in_range _ _
theorem unknownTag (tag len : Word) : Statement (.unknownTag tag len) := chunk_in_range _ _
theorem unaryZero : Statement .unaryZero := by unfold Statement; decide
theorem unaryStop : Statement .unaryStop := by unfold Statement; decide
theorem predK0 : Statement .predK0 := by unfold Statement; decide
theorem predK1 : Statement .predK1 := by unfold Statement; decide
theorem predK2 : Statement .predK2 := by unfold Statement; decide
theorem predK3 : Statement .predK3 := by unfold Statement; decide
theorem predK4 : Statement .predK4 := by unfold Statement; decide

end Sys2Proof.Laws.EncodesInRange
end

