-- ==== Sys2Proof/Tests/Slice0.lean ====
section
/-! SUPPORT. Tests with expected values from 95_test_vectors.md and the encodings of 30_encoding.md, and for every obligation
with hypotheses a witness that they can be met. -/

open Sys2Proof Sys2Proof.Machine Sys2Proof.Claims

namespace Sys2Proof.Tests

/-! ## Small states -/

/-- A memory holding these bytes from an offset. -/
def bytesAt (a : Nat) : List Byte → Memory 8
  | [] => []
  | b :: rest => if b = 0 then bytesAt (a + 1) rest else (a, b) :: bytesAt (a + 1) rest

/-- Reset, with these bytes in IN, their count in `IN_LEN`, and a small unary cap. -/
def holding (bytes : List Byte) : State :=
  { State.reset with
    inMem := bytesAt 0 bytes, inLen := BitVec.ofNat 32 bytes.length
    params := { Params.default with unaryCap := 20 } }

/-- The reader bound to all of these bytes. -/
def reading (bytes : List Byte) : State := { holding bytes with br := { base := 0, len := bytes.length, pos := 0 } }

/-- The argument registers name all of these bytes, and `n` frames. -/
def asking (bytes : List Byte) (n : Word) : State :=
  { holding bytes with argLen := BitVec.ofNat 32 bytes.length, argN := n }

/-- PARSE's walk stands at the chunk that these bytes are. -/
def atChunk (bytes : List Byte) : State :=
  { holding bytes with work := .walk, walker := [{ pos := 0, stop := bytes.length }] }

/-- A sample of channel 0 is in the unary loop. -/
def inUnary (qc : Nat) : State := { reading [0x40] with work := .unary .c0 { acc := 360, cs := 60, qc := qc, z := 6 } }

/-- The predictor step of the vectors PR-K0 to PR-K4, with energy index `k`. -/
def atPredictor (k : Nat) : State :=
  { State.reset with
    work := .predict .c0 4
    ch0 := { Channel.initial with s := ⟨100, 30, -8, 6, -20⟩, e := energiesFor k } }

/-- The host is about to make these accesses. -/
def about (l : List HostAccess) : State := { State.reset with host := l }

/-- The outcome is a next state with a property. -/
def got (o : Host.Outcome State Fault Refusal) (p : State → Bool) : Bool :=
  match o with
  | .next t => p t
  | _ => false

/-- The file of vector W-2SDAT up to its first SDAT, its container shortened to match (A-DERIVED's shape). -/
def oneSdat : List Byte :=
  [0x43, 0x41, 0x54, 0x20, 0, 0, 0, 13, 0x52, 0x45, 0x58, 0x32, 0x53, 0x44, 0x41, 0x54, 0, 0, 0, 1, 0x84]

/-! ## Well-formedness and decoding -/

theorem test_wellFormed_refuses_known_tags :
    (Instr.unknownTag 0x43415420 0).wellFormed = false ∧ (Instr.unknownTag 0x474C4F42 0).wellFormed = false ∧
      (Instr.unknownTag 0x48454144 0).wellFormed = false ∧ (Instr.unknownTag 0x53494E46 0).wellFormed = false ∧
      (Instr.unknownTag 0x534C4345 0).wellFormed = false ∧ (Instr.unknownTag 0x53444154 0).wellFormed = false ∧
      (Instr.unknownTag 0x43415421 0).wellFormed = true := by decide

/-- R81, each word bit by bit: `RSV`, `OPD`, `OPC`. -/
theorem test_decode_commands :
    decodeCommand 0b0000000000000000_00000000_00000001 = .ok .parse ∧
    decodeCommand 0b0000000000000000_00000000_00000010 = .ok .destroy ∧
    decodeCommand 0b0000000000000000_00000000_00000011 = .ok .decodeMono ∧
    decodeCommand 0b0000000000000000_00000000_00000100 = .ok .decodeStereo ∧
    decodeCommand 0b0000000000000000_00000000_00010000 = .ok .brInit ∧
    decodeCommand 0b0000000000000000_00000000_00010001 = .ok .brReadBit ∧
    decodeCommand 0b0000000000000000_00100000_00010010 = .ok (.brReadBits 32) ∧
    decodeCommand 0b0000000000000000_00000001_00100000 = .ok (.chInit 1) ∧
    decodeCommand 0b0000000000000000_11111111_00100001 = .ok (.chDecodeSample 255) := by decide

/-- The illegal words of 95_test_vectors.md 2.6. -/
theorem test_decode_illegal_commands :
    decodeCommand 0x00000101 = .error .operandNotZero ∧ decodeCommand 0x00010001 = .error .reservedBits ∧
    decodeCommand 0x00000000 = .error .unknownOpcode ∧ decodeCommand 0x00000005 = .error .unknownOpcode ∧
    decodeCommand 0x00000013 = .error .unknownOpcode ∧ decodeCommand 0x00000022 = .error .unknownOpcode ∧
    decodeCommand 0x000000FF = .error .unknownOpcode := by decide

/-- R84, R86: header bytes, tag then big-endian length. -/
theorem test_decode_chunks :
    decodeHeaderBytes [0x43, 0x41, 0x54, 0x20, 0, 0, 0, 0x32] = .ok (.cat 50, []) ∧
    decodeHeaderBytes [0x47, 0x4C, 0x4F, 0x42, 0, 0, 0, 0x14] = .ok (.glob 20, []) ∧
    decodeHeaderBytes [0x48, 0x45, 0x41, 0x44, 0, 0, 0, 6] = .ok (.head 6, []) ∧
    decodeHeaderBytes [0x53, 0x49, 0x4E, 0x46, 0, 0, 0, 0x0A] = .ok (.sinf 10, []) ∧
    decodeHeaderBytes [0x53, 0x4C, 0x43, 0x45, 0, 0, 0, 8] = .ok (.slce 8, []) ∧
    decodeHeaderBytes [0x53, 0x44, 0x41, 0x54, 0x01, 0x02, 0x03, 0x04] = .ok (.sdat 0x01020304, []) ∧
    decodeHeaderBytes [0x4A, 0x55, 0x4E, 0x4B, 0, 0, 0, 3, 0x61] = .ok (.unknownTag 0x4A554E4B 3, [0x61]) ∧
    decodeHeaderBytes [0x43, 0x41, 0x54, 0x20, 0, 0, 0] = .error .shortHeader := by decide

/-- R95, R99: the unary bits and the energy indexes; 5 to 7 are no index. -/
theorem test_decode_symbols :
    decodeUnaryBit false = .unaryZero ∧ decodeUnaryBit true = .unaryStop ∧
    decodePredIndex 0b000 = .ok .predK0 ∧ decodePredIndex 0b001 = .ok .predK1 ∧ decodePredIndex 0b010 = .ok .predK2 ∧
    decodePredIndex 0b011 = .ok .predK3 ∧ decodePredIndex 0b100 = .ok .predK4 ∧
    decodePredIndex 0b101 = .error .unusedIndex ∧ decodePredIndex 0b110 = .error .unusedIndex ∧
    decodePredIndex 0b111 = .error .unusedIndex := by decide

/-- Placed instructions run as the first after reset, one of each format. -/
theorem test_withFetchWord_steps :
    got (step (State.reset.withFetchWord 32 0x00000010)) (fun t => t.status.state == .done && t.cmd == 0x10) = true ∧
    got (step (State.reset.withFetchWord 32 0x48454144)) (fun t => t.walker == [{ pos := 8, stop := 8 }]) = true ∧
    got (step (State.reset.withFetchWord 8 1)) (fun t => t.work == .range .c0 (unaryStart Channel.initial.e)) = true ∧
    got (step (State.reset.withFetchWord 8 3)) (fun t => t.work == .emit .c0) = true := by decide

/-! ## Commands -/

/-- Program P1, on a state that holds its file: `STATUS`, registers, slice, OUT, `CH[0].S` and `BR` at the end. -/
theorem test_parse_P1 :
    got (exec .parse (holding ([0x43, 0x41, 0x54, 0x20, 0, 0, 0, 0x32, 0x52, 0x45, 0x58, 0x32] ++
      [0x53, 0x49, 0x4E, 0x46, 0, 0, 0, 0x0A, 1, 0, 0, 0, 0xAC, 0x44, 0, 0, 0, 3] ++
      [0x53, 0x4C, 0x43, 0x45, 0, 0, 0, 8, 0, 0, 0, 0, 0, 0, 0, 2] ++
      [0x53, 0x44, 0x41, 0x54, 0, 0, 0, 3, 0x82, 0x1A, 0x40, 0]))) (fun t =>
        t.status.word == 0x12 && t.pcmFrames == 3 && t.sampleRate == 44100 && t.slices == [{ off := 0, len := 2 }] &&
          t.pcm == [0, -1, 5] && t.ch0.s == ⟨10, 12, 14, 16, 18⟩ && t.br == { base := 54, len := 3, pos := 19 }) = true := by
  decide

/-- Vector A-12: an empty container has no audio. -/
theorem test_parse_no_audio :
    got (exec .parse (holding [0x43, 0x41, 0x54, 0x20, 0, 0, 0, 4, 0x52, 0x45, 0x58, 0x32]))
      (fun t => t.status.word == 0x403 && t.sampleRate == 0) = true := by decide

/-- Vector A-DESTROY. -/
theorem test_destroy :
    got (exec .destroy { State.reset with sampleRate := 44100, pcmFrames := 3, slices := [{ off := 0, len := 2 }] })
      (fun t => t.status.word == 2 && t.sampleRate == 0 && t.readReg 0x104 == 0) = true := by decide

/-- Vector ST-1. -/
theorem test_decodeMono_ST1 :
    got (exec .decodeMono (asking [0x80, 0x84] 2)) (fun t =>
      pcmSamples t.outMem 3 == [0, -59, 0] && t.result == 2 && t.status.word == 2 && t.br.pos == 14) = true := by
  decide

/-- Vector ST-SHORT, with the cap at 20: `BR.pos` ends at 6 + 20. -/
theorem test_decodeMono_short :
    got (exec .decodeMono (asking [0x84] 3)) (fun t =>
      pcmSamples t.outMem 2 == [-1, 0] && t.result == 1 && t.status.word == 0x0A && t.br.pos == 26) = true := by
  decide

/-- Vector ST-2. -/
theorem test_decodeStereo_ST2 :
    got (exec .decodeStereo (asking [0x86, 0x10] 1)) (fun t =>
      pcmSamples t.outMem 3 == [-1, -2, 0] && t.result == 1 && t.status.word == 2 && t.br.pos == 12) = true := by
  decide

/-- Vector ST-PART, with the cap at 20: half a frame is neither written nor counted. -/
theorem test_decodeStereo_half_frame :
    got (exec .decodeStereo (asking [0x84] 1)) (fun t =>
      t.outMem == [] && t.result == 0 && t.status.word == 0x0A && t.br.pos == 26) = true := by decide

/-- Vectors BR-8 and BR-9. -/
theorem test_brInit :
    got (exec .brInit { holding [0xA5, 0x3C] with argOff := 1, argLen := 2 })
      (fun t => t.status.err == 9 && t.br.len == 0) = true ∧
    got (exec .brInit { holding [0xA5, 0x3C] with argOff := 2, argLen := 0, result := 7 })
      (fun t => t.status.word == 2 && t.result == 0 && t.br.base == 2) = true := by decide

/-- Vector BR-1: the first bit of `A5` is 1, the second 0. -/
theorem test_brReadBit :
    got (exec .brReadBit (reading [0xA5])) (fun t => t.result == 1 && t.br.pos == 1) = true ∧
    got (exec .brReadBit { reading [0xA5] with br := { base := 0, len := 1, pos := 1 } }) (fun t => t.result == 0) = true := by
  decide

/-- Vector BR-3: the last four bits, then zeros past the end in the low places. -/
theorem test_brReadBits :
    got (exec (.brReadBits 8) { reading [0xA5, 0x3C] with br := { base := 0, len := 2, pos := 12 } })
      (fun t => t.result == 0xC0 && t.br.pos == 20) = true ∧
    got (exec (.brReadBits 33) (reading [0xA5])) (fun t => t.status.err == 9 && t.br.pos == 0) = true := by decide

/-- Vectors CH-C4 and CH-C5. -/
theorem test_chInit :
    got (exec (.chInit 1) { State.reset with ch1 := { Channel.initial with rv := 64, ba := 5, dead := true } })
      (fun t => t.ch1 == Channel.initial && t.status.word == 2) = true ∧
    got (exec (.chInit 2) State.reset) (fun t => t.status.err == 9) = true := by decide

/-- Vector CH-NEG. -/
theorem test_chDecodeSample_negative :
    got (exec (.chDecodeSample 0) (reading [0x84])) (fun t =>
      t.result == 0xFFFFFFFF && t.ch0.s == ⟨-2, -2, -2, -2, -2⟩ && t.ch0.e.r4 == 2481 && t.ch0.rv == 64 && t.br.pos == 6)
      = true := by decide

/-- Vector CH-Q7MAX, on channel 1: the divisor after seven zeros, a remainder with its extra bit. -/
theorem test_chDecodeSample_quadrupled :
    got (exec (.chDecodeSample 1) (reading [0x01, 0xFE])) (fun t =>
      t.result == 329 && t.ch1.e.r0 == 3138 && t.ch1.ba == 7 && t.br.pos == 16 && t.ch0 == Channel.initial) = true := by
  decide

/-! ## Chunks, at the cursor of a walk -/

/-- W-CAT2's nested container, which is skipped; and a container that holds one HEAD. -/
theorem test_cat :
    got (exec (.cat 2) (atChunk [0x43, 0x41, 0x54, 0x20, 0, 0, 0, 2, 0x41, 0x42]))
      (fun t => t == atChunk [0x43, 0x41, 0x54, 0x20, 0, 0, 0, 2, 0x41, 0x42]) = true ∧
    got (exec (.cat 18) (atChunk ([0x43, 0x41, 0x54, 0x20, 0, 0, 0, 18, 0x52, 0x45, 0x58, 0x32] ++
      [0x48, 0x45, 0x41, 0x44, 0, 0, 0, 6, 0, 0, 0, 0, 0, 2])))
      (fun t => t.bytesPerSample == 2 && t.walker == [{ pos := 0, stop := 26 }]) = true := by decide

/-- The example of R193. -/
theorem test_glob :
    got (exec (.glob 20) (atChunk ([0x47, 0x4C, 0x4F, 0x42, 0, 0, 0, 0x14] ++
      [0, 0, 0, 0, 0, 2, 8, 4, 4, 0, 0, 0, 0, 0, 0, 0, 0, 1, 0xD4, 0xC0])))
      (fun t => t.barsBeats == 0x80002 && t.timesig == 0x404 && t.tempoMbpm == 120000) = true := by decide

/-- The example of R195. -/
theorem test_head :
    got (exec (.head 6) (atChunk [0x48, 0x45, 0x41, 0x44, 0, 0, 0, 6, 0, 0, 0, 0, 0, 2])) (fun t => t.bytesPerSample == 2)
      = true := by decide

/-- The example of R197; a sample rate of 0 keeps the old one. -/
theorem test_sinf :
    got (exec (.sinf 10) (atChunk [0x53, 0x49, 0x4E, 0x46, 0, 0, 0, 10, 2, 0, 0, 0, 0xAC, 0x44, 0, 1, 0x65, 0x88]))
      (fun t => t.channels == 2 && t.sampleRate == 44100 && t.totalFrames == 91528) = true ∧
    got (exec (.sinf 10) { atChunk [0x53, 0x49, 0x4E, 0x46, 0, 0, 0, 10, 2, 0, 0, 0, 0, 0, 0, 0, 0, 1] with sampleRate := 9 })
      (fun t => t.sampleRate == 9 && t.totalFrames == 1) = true := by decide

/-- The example of R199; a transient marker (R201). -/
theorem test_slce :
    got (exec (.slce 8) (atChunk [0x53, 0x4C, 0x43, 0x45, 0, 0, 0, 8, 0, 0, 1, 0x20, 0, 0, 0x10, 0]))
      (fun t => t.slices == [{ off := 288, len := 4096 }]) = true ∧
    got (exec (.slce 8) (atChunk [0x53, 0x4C, 0x43, 0x45, 0, 0, 0, 8, 0, 0, 1, 0x20, 0, 0, 0, 1]))
      (fun t => t.slices == []) = true := by decide

/-- The example of R202. -/
theorem test_sdat :
    got (exec (.sdat 1) { atChunk [0x53, 0x44, 0x41, 0x54, 0, 0, 0, 1, 0x84] with channels := 1, totalFrames := 1 })
      (fun t => Memory.read t.outMem 0 == -1 && t.pcmFrames == 1 && t.decChannels == 1 && t.status.decoded) = true := by
  decide

/-- Vector A-CH3: a channel byte of 3 ends the PARSE in `Corrupt`. -/
theorem test_sdat_corrupt :
    got (exec (.sdat 1) { atChunk [0x53, 0x44, 0x41, 0x54, 0, 0, 0, 1, 0x84] with channels := 3, totalFrames := 1 })
      (fun t => t.status.word == 0x513 && t.work == .none && t.walker == []) = true := by decide

theorem test_unknownTag : exec (.unknownTag 0x4A554E4B 3) State.reset = .next State.reset := by rfl

/-! ## Symbols, inside a sample -/

/-- The example of R148: the seventh zero. -/
theorem test_unaryZero :
    got (exec .unaryZero (inUnary 1)) (fun t => t.work == .unary .c0 { acc := 420, cs := 240, qc := 7, z := 7 }) = true := by
  decide

theorem test_unaryStop :
    got (exec .unaryStop (inUnary 1)) (fun t => t.work == .range .c0 { acc := 360, cs := 60, qc := 1, z := 6 }) = true := by
  decide

/-- The examples of R140 to R144. -/
theorem test_predictor_cases :
    got (exec .predK0 (atPredictor 0)) (fun t => t.ch0.s == ⟨4, -96, -126, -118, -124⟩) = true ∧
    got (exec .predK1 (atPredictor 1)) (fun t => t.ch0.s == ⟨104, 4, -26, -18, -24⟩) = true ∧
    got (exec .predK2 (atPredictor 2)) (fun t => t.ch0.s == ⟨134, 34, 4, 12, 6⟩) = true ∧
    got (exec .predK3 (atPredictor 3)) (fun t => t.ch0.s == ⟨126, 26, -4, 4, -2⟩) = true ∧
    got (exec .predK4 (atPredictor 4)) (fun t => t.ch0.s == ⟨132, 32, 2, 10, 4⟩) = true := by decide

/-! ## The hypotheses of the obligations can be met -/

/-- RegisterMapReads: unmapped offsets at the edges of R20's map, and the last slice entry. -/
theorem witness_RegisterMapReads :
    Unmapped State.reset 0x044 ∧ Unmapped State.reset 0x0FC ∧ Unmapped State.reset 0x900 ∧ Unmapped State.reset 0x005 ∧
      255 < State.reset.params.maxSlices := by
  unfold Unmapped; decide

theorem witness_HostAccessesRegisters :
    ((about [.readReg 0x044]).work = .none ∧ (about [.readReg 0x044]).host = .readReg 0x044 :: []) ∧
    ((about [.writeReg 0x014 5]).status.state ≠ .busy ∧ (about [.writeReg 0x014 5]).host = .writeReg 0x014 5 :: [] ∧
      0x014 ∈ argOffsets) ∧
    ((about [.writeReg 0x018 5]).host = .writeReg 0x018 5 :: [] ∧ 0x018 ≠ 0 ∧ 0x018 ∉ argOffsets) ∧
    (((about [.writeReg 0 1]).setCmdState .busy).work = .none ∧
      ((about [.writeReg 0 1]).setCmdState .busy).status.state = .busy ∧
      ((about [.writeReg 0 1]).setCmdState .busy).host = .writeReg 0 1 :: []) := by decide

/-- LoadInStoresBytes: bytes that fill IN to its last offset. -/
theorem witness_LoadInStoresBytes :
    let s := { about (loadIn [1, 0]) with params := { Params.default with inSize := 2 } }
    s.work = .none ∧ s.status.state ≠ .busy ∧ Memory.wf s.inMem ∧ s.host = loadIn [1, 0] ++ [] ∧
      [(1 : Byte), 0].length ≤ s.params.inSize := by decide

/-- HostAccessesInAndOut: the last offset of each space, and the first past it. -/
theorem witness_HostAccessesInAndOut :
    (about [.writeIn 1048575 1]).host = .writeIn 1048575 1 :: [] ∧ 1048575 < State.reset.params.inSize ∧
      (about []).status.state ≠ .busy ∧ Memory.wf (about []).inMem ∧
      (about [.readOut 1048575]).host = .readOut 1048575 :: [] ∧ 1048575 < State.reset.params.outSize ∧
      (about [.writeIn 1048576 1]).host = .writeIn 1048576 1 :: [] ∧ State.reset.params.inSize ≤ 1048576 ∧
      (about [.readOut 1048576]).host = .readOut 1048576 :: [] ∧ State.reset.params.outSize ≤ 1048576 ∧
      (about []).work = .none := by decide

/-- R64: a slot is read back as `sext_16`. -/
theorem test_readOut :
    got (step { about [.readOut 1] with outMem := [(1, -59)] }) (fun t => t.hostData.toInt == -59) = true := by decide

theorem witness_DecodeInvertsEncode : (Instr.unknownTag 0x4A554E4B 3).wellFormed = true := by decide

theorem witness_EncodeInvertsDecode : decode ⟨.command, 0xFF21⟩ = .ok (.chDecodeSample 255) := by decide

/-- IllegalWordRaisesBadCommand: each cause, and a legal word. -/
theorem witness_IllegalWordRaisesBadCommand :
    (about [.writeReg 0 0x10001]).host = .writeReg 0 0x10001 :: [] ∧ (about []).work = .none ∧
      (about []).status.state ≠ .busy ∧ IllegalWord 0x10001 ∧ IllegalWord 0x13 ∧ IllegalWord 0x101 ∧
      ¬ IllegalWord 0xFF21 := by
  unfold IllegalWord; decide

theorem witness_StepRunsCommandWord :
    (about [.writeReg 0 0x10]).work = .none ∧ (about [.writeReg 0 0x10]).status.state ≠ .busy ∧
      (about [.writeReg 0 0x10]).host = .writeReg 0 0x10 :: [] ∧ decodeCommand 0x10 = .ok .brInit := by decide

/-- StepRunsChunk: a chunk that just fits, and one that ends the PARSE. -/
theorem witness_StepRunsChunk :
    (let s := atChunk [0x48, 0x45, 0x41, 0x44, 0, 0, 0, 1, 7]
     s.work = .walk ∧ s.walker = { pos := 0, stop := 9 } :: [] ∧ 9 ≤ s.params.inSize ∧
      (1 : Word) = BitVec.ofNat 32 (quad s 4) ∧ 0 + 8 + (1 : Word).toNat ≤ 9 ∧
      decodeHeaderBytes ((List.range 8).map fun j => Memory.read s.inMem (0 + j)) = .ok (.head 1, []) ∧
      got (exec (.head 1) s) (fun t => t.work == .walk) = true) ∧
    (let s := { atChunk [0x53, 0x44, 0x41, 0x54, 0, 0, 0, 0] with channels := 3 }
     s.work = .walk ∧ s.walker = { pos := 0, stop := 8 } :: [] ∧ (0 : Word) = BitVec.ofNat 32 (quad s 4) ∧
      decodeHeaderBytes ((List.range 8).map fun j => Memory.read s.inMem (0 + j)) = .ok (.sdat 0, []) ∧
      got (exec (.sdat 0) s) (fun t => t.work == .none) = true) := by decide

/-- StepRunsSampleSymbols: the last bit below the cap, and energies whose least index is 4. -/
theorem witness_StepRunsSampleSymbols :
    (let s := { reading [0x40] with work := .unary .c1 { acc := 0, cs := 0, qc := 1, z := 19 } }
     s.work = .unary .c1 { acc := 0, cs := 0, qc := 1, z := 19 } ∧ 19 < s.params.unaryCap ∧ s.readerOk = true) ∧
    ((atPredictor 4).work = .predict .c0 4 ∧ IsLeastIndex ((atPredictor 4).chan .c0).e 4 ∧
      decodePredIndex (BitVec.ofNat 3 4) = .ok .predK4) := by
  unfold IsLeastIndex; decide

/-- ReadBitsValue: a full word, and two memories that agree on the slice alone. -/
theorem witness_ReadBitsValue :
    32 ≤ 32 ∧ ∀ a, 1 ≤ a → a < 1 + 1 → Memory.read (bytesAt 0 [1, 2, 3]) a = Memory.read (bytesAt 0 [9, 2, 9]) a := by
  refine ⟨by decide, fun a h1 h2 => ?_⟩
  have : a = 1 := by omega
  subst this; decide

/-- BrInitBindsSlice, DecodeMonoWritesRun, DecodeStereoWritesRun and DecodeBadArguments: a slice that ends at `IN_LEN`, one that
runs a byte past it, a length one past `IN_SIZE`, and counts at and one past `OUT_SIZE`. -/
theorem witness_argument_slices :
    (let s := { asking [1, 2] 0 with argOff := 0, argLen := 2, argN := 1048576 }
     s.inLen.toNat ≤ s.params.inSize ∧ s.argOff.toNat + s.argLen.toNat ≤ s.inLen.toNat ∧
      s.argN.toNat ≤ s.params.outSize ∧ Memory.wf s.outMem) ∧
    (let s := { asking [1, 2] 524288 with argOff := 2, argLen := 0 }
     s.argOff.toNat + s.argLen.toNat ≤ s.inLen.toNat ∧ 2 * s.argN.toNat ≤ s.params.outSize) ∧
    (let s := { asking [1, 2] 0 with argOff := 1, argLen := 2 }
     s.inLen.toNat < s.argOff.toNat + s.argLen.toNat) ∧
    State.reset.params.inSize < (1048577 : Word).toNat ∧ State.reset.params.outSize < (1048577 : Word).toNat ∧
    State.reset.params.outSize < 2 * (524289 : Word).toNat := by decide

/-- BrReadBitReturnsBit, BrReadBitsReturnsValue: the reader in IN; both sides of the count's limit. -/
theorem witness_reader_commands :
    (reading [0xA5]).readerOk = true ∧ State.reset.readerOk = true ∧ (32 : Byte).toNat ≤ 32 ∧ 32 < (33 : Byte).toNat := by
  decide

theorem witness_ChInitRestoresChannel : 1 < (2 : Byte).toNat := by decide

/-- DecodedSampleClosedForm: vector CH-U1, and a stop bit as the last below the cap. -/
theorem witness_DecodedSampleClosedForm :
    (let s := reading [0x40]
     chanOf 0 = some .c0 ∧ (s.chan .c0).dead = false ∧ (s.chan .c0).Good ∧ s.readerOk = true ∧
      (∀ j < 1, bitAt s.inMem s.br (s.br.pos + j) = false) ∧ bitAt s.inMem s.br (s.br.pos + 1) = true ∧
      1 < s.params.unaryCap ∧ csOf (stepOf (s.chan .c0).e) 1 < 2 ^ 31) ∧
    IsLeastIndex (reading [0x40]).ch0.e 0 ∧
    (let s := reading [0, 0, 0x10]
     (∀ j < 19, bitAt s.inMem s.br (s.br.pos + j) = false) ∧ bitAt s.inMem s.br (s.br.pos + 19) = true ∧
      19 < s.params.unaryCap ∧ csOf (stepOf (s.chan .c0).e) 19 < 2 ^ 31) := by
  unfold IsLeastIndex; decide

/-- RangeCollapseFails: vector CH-COLL. -/
theorem witness_RangeCollapseFails :
    let s := { reading [0, 0, 0, 0, 0, 0, 0, 0, 0, 0, 0, 0x10] with params := Params.default }
    chanOf 1 = some .c1 ∧ (s.chan .c1).dead = false ∧ (s.chan .c1).Good ∧ s.readerOk = true ∧
      (∀ j < 91, bitAt s.inMem s.br (s.br.pos + j) = false) ∧ bitAt s.inMem s.br (s.br.pos + 91) = true ∧
      91 < s.params.unaryCap ∧ 2 ^ 31 ≤ csOf (stepOf (s.chan .c1).e) 91 := by decide

/-- UnaryCapFails: twenty zero bits inside the slice, and a position at its end. -/
theorem witness_UnaryCapFails :
    (let s := reading [0, 0, 0x08]
     chanOf 0 = some .c0 ∧ (s.chan .c0).dead = false ∧ s.readerOk = true ∧
      ∀ j < s.params.unaryCap, bitAt s.inMem s.br (s.br.pos + j) = false) ∧
    (let s := { reading [0x84] with br := { base := 0, len := 1, pos := 8 } }
     s.readerOk = true ∧ 8 * s.br.len ≤ s.br.pos) := by decide

theorem witness_DeadChannelFailsAtOnce :
    let s := { State.reset with ch1 := { Channel.initial with dead := true } }
    chanOf 1 = some .c1 ∧ (s.chan .c1).dead = true ∧ 1 < (2 : Byte).toNat := by decide

/-- NormalisationInvariant: both ends of `ba`, a divisor of 0, one that just fits and one that just collapses. -/
theorem witness_NormalisationInvariant :
    (2 : Word) = BitVec.ofNat 32 (2 ^ ((0 : Int) + 1).toNat) ∧ (1 : Word) = BitVec.ofNat 32 (2 ^ ((-1 : Int) + 1).toNat) ∧
      (0x80000000 : Word) = BitVec.ofNat 32 (2 ^ ((30 : Int) + 1).toNat) ∧ normalise 0 2 0 = some (1, -1) ∧
      normalise 60 2 0 = some (64, 5) ∧ normalise 0x7FFFFFFF 2 0 = some (0x80000000, 30) ∧
      normalise 0x80000000 2 0 = none := by decide

/-- RemainderIsTruncatedBinary: `cs = 60`, `r = 64` (CH-SIL), and the edge `r = 2·cs`. -/
theorem witness_RemainderIsTruncatedBinary :
    (1 ≤ (60 : Word).toNat ∧ (60 : Word).toNat < (64 : Word).toNat ∧ (64 : Word).toNat ≤ 2 * (60 : Word).toNat ∧
      (64 : Word).toNat = 2 ^ (5 + 1)) ∧
    ((1 : Word).toNat < (2 : Word).toNat ∧ (2 : Word).toNat ≤ 2 * (1 : Word).toNat ∧ (2 : Word).toNat = 2 ^ (0 + 1)) ∧
    (readRemainder (bytesAt 0 [0x84]) 60 64 5 { base := 0, len := 1, pos := 1 }).1 =
      (readRemainder (bytesAt 0 [0x08]) 60 64 5 { base := 0, len := 1, pos := 0 }).1 := by decide

/-- ZigzagAlternates (E7): both parities, and the wrap. -/
theorem witness_ZigzagAlternates : zigzag 6 = 6 ∧ zigzag 5 = -6 ∧ zigzag 0xFFFFFFFF = 0 := by decide

/-- EnergyUpdateBiased (E8, R145): every register has an index below 5. -/
theorem witness_EnergyUpdateBiased :
    4 < 5 ∧ (energyUpdate ⟨2560, 2560, 2560, 2560, 2560⟩ ⟨-2, 0, -1, 5, 0x80000000⟩) =
      ⟨2481, 2480, 2480, 2485, 2147486127⟩ := by decide

theorem witness_UnaryBitsStep :
    (inUnary 1).work = .unary .c0 { acc := 360, cs := 60, qc := 1, z := 6 } ∧
      (inUnary 2).work = .unary .c0 { acc := 360, cs := 60, qc := 2, z := 6 } := by decide

theorem witness_PredictorCasesUpdate : (atPredictor 2).work = .predict .c0 4 := by decide

theorem witness_SampleStepsAgreeWithCommand :
    (reading [0x84]).work = .none ∧ chanOf 1 = some .c1 ∧ ((reading [0x84]).chan .c1).dead = false ∧
      (reading [0x84]).readerOk = true := by decide

/-- A chunk of the length given stands at the cursor, its payload ending with IN. -/
theorem atChunk_of_size (s : State) (len : Word) (stop : Nat) (h : s.walker = [{ pos := 0, stop := stop }])
    (hl : 8 + len.toNat ≤ s.params.inSize) : AtChunk s len 8 := ⟨⟨_, _, h, rfl⟩, hl⟩

/-- GlobStoresFields: both sides of its minimum. -/
theorem witness_GlobStoresFields :
    AtChunk (atChunk (List.replicate 28 1)) 20 8 ∧ AtChunk (atChunk (List.replicate 28 1)) 19 8 ∧
      20 ≤ (20 : Word).toNat ∧ (19 : Word).toNat < 20 :=
  ⟨atChunk_of_size _ _ 28 rfl (by decide), atChunk_of_size _ _ 28 rfl (by decide), by decide, by decide⟩

/-- HeadStoresField: both sides of its minimum. -/
theorem witness_HeadStoresField :
    AtChunk (atChunk (List.replicate 14 1)) 6 8 ∧ AtChunk (atChunk (List.replicate 14 1)) 5 8 ∧
      6 ≤ (6 : Word).toNat ∧ (5 : Word).toNat < 6 :=
  ⟨atChunk_of_size _ _ 14 rfl (by decide), atChunk_of_size _ _ 14 rfl (by decide), by decide, by decide⟩

/-- SinfStoresFields: both sides of its minimum, and sample rates 0 and 1. -/
theorem witness_SinfStoresFields :
    AtChunk (atChunk [0, 0, 0, 0, 0, 0, 0, 10, 2, 0, 0, 0, 0, 1, 0, 0, 0, 1]) 10 8 ∧
      half (atChunk [0, 0, 0, 0, 0, 0, 0, 10, 2, 0, 0, 0, 0, 1, 0, 0, 0, 1]) (8 + 4) ≠ 0 ∧
      AtChunk (atChunk [0, 0, 0, 0, 0, 0, 0, 10, 2, 0, 0, 0, 0, 0, 0, 0, 0, 1]) 10 8 ∧
      half (atChunk [0, 0, 0, 0, 0, 0, 0, 10, 2, 0, 0, 0, 0, 0, 0, 0, 0, 1]) (8 + 4) = 0 ∧
      AtChunk (atChunk (List.replicate 18 1)) 9 8 ∧ (9 : Word).toNat < 10 :=
  ⟨atChunk_of_size _ _ 18 rfl (by decide), by decide, atChunk_of_size _ _ 18 rfl (by decide), by decide,
    atChunk_of_size _ _ 18 rfl (by decide), by decide⟩

/-- SlceAppendsSlice: the last free place, a full table, lengths 2 and 1, and a payload of 7. -/
theorem witness_SlceAppendsSlice :
    (let s := { atChunk [0, 0, 0, 0, 0, 0, 0, 8, 0, 0, 0, 5, 0, 0, 0, 2] with
        params := { Params.default with maxSlices := 1 } }
     AtChunk s 8 8 ∧ 2 ≤ quad s (8 + 4) ∧ s.slices.length < s.params.maxSlices) ∧
    (let s := { atChunk [0, 0, 0, 0, 0, 0, 0, 8, 0, 0, 0, 5, 0, 0, 0, 1] with
        params := { Params.default with maxSlices := 1 }, slices := [{ off := 0, len := 2 }] }
     AtChunk s 8 8 ∧ quad s (8 + 4) ≤ 1 ∧ s.params.maxSlices ≤ s.slices.length) ∧
    AtChunk (atChunk (List.replicate 16 1)) 7 8 ∧ (7 : Word).toNat < 8 :=
  ⟨⟨atChunk_of_size _ _ 16 rfl (by decide), by decide, by decide⟩,
    ⟨atChunk_of_size _ _ 16 rfl (by decide), by decide, by decide⟩, atChunk_of_size _ _ 16 rfl (by decide), by decide⟩

/-- UnknownChunkSkipped: an odd payload that ends its level (R187's pad byte is past it). -/
theorem witness_UnknownChunkSkipped :
    let s := atChunk [0x4A, 0x55, 0x4E, 0x4B, 0, 0, 0, 3, 0x61, 0x62, 0x63]
    s.work = .walk ∧ s.walker = { pos := 0, stop := 11 } :: [] ∧ 11 ≤ s.params.inSize ∧ 0 + 8 + quad s (0 + 4) ≤ 11 ∧
      BitVec.ofNat 32 (quad s 0) ∉ knownTags := by decide

/-- LevelEnds: 7 bytes left, a cursor past the boundary, and a chunk one byte too long. -/
theorem witness_LevelEnds :
    (let s := { atChunk [] with walker := [{ pos := 1, stop := 8 }] }
     s.work = .walk ∧ 8 ≤ s.params.inSize ∧ 8 < 1 + 8) ∧
    (let s := { atChunk [] with walker := [{ pos := 10, stop := 9 }] }
     s.work = .walk ∧ 9 < 10 + 8) ∧
    (let s := atChunk [0x4A, 0x55, 0x4E, 0x4B, 0, 0, 0, 3, 0x61, 0x62]
     s.work = .walk ∧ s.walker = { pos := 0, stop := 10 } :: [] ∧ 10 ≤ s.params.inSize ∧ 0 + 8 ≤ 10 ∧
      10 < 0 + 8 + quad s (0 + 4)) := by decide

/-- ShortContainerAndLaterSdatSkipped: containers of 0, 4 and 11 bytes, and a latched SDAT. -/
theorem witness_ShortContainerAndLaterSdatSkipped :
    AtChunk (atChunk (List.replicate 19 1)) 0 8 ∧ AtChunk (atChunk (List.replicate 19 1)) 4 8 ∧
      AtChunk (atChunk (List.replicate 19 1)) 11 8 ∧ (11 : Word).toNat < 12 ∧
      AtChunk (atChunk (List.replicate 19 1)).setDecoded 11 8 ∧
      (atChunk (List.replicate 19 1)).setDecoded.status.decoded = true :=
  ⟨atChunk_of_size _ _ 19 rfl (by decide), atChunk_of_size _ _ 19 rfl (by decide), atChunk_of_size _ _ 19 rfl (by decide),
    by decide, atChunk_of_size _ _ 19 rfl (by decide), by decide⟩

/-- ContainerWalksNestedLevel: the smallest walked container. -/
theorem witness_ContainerWalksNestedLevel :
    AtChunk (atChunk (List.replicate 12 1)) 4 8 ∧ (atChunk (List.replicate 12 1)).work = .walk ∧ 4 ≤ (4 : Word).toNat :=
  ⟨atChunk_of_size _ _ 12 rfl (by decide), by decide, by decide⟩

/-- An SDAT chunk of one payload byte, with a declared count. -/
def sdatChunk (channels total : Word) : State :=
  { atChunk [0x53, 0x44, 0x41, 0x54, 0, 0, 0, 1, 0x84] with channels := channels, totalFrames := total }

/-- SdatDecodesMono: a declared count that is reached, and a derived count. -/
theorem witness_SdatDecodesMono :
    AtChunk (sdatChunk 1 1) 1 8 ∧ (sdatChunk 1 1).status.decoded = false ∧ (sdatChunk 1 1).channels = 1 ∧
      framesOf (sdatChunk 1 1) 1 ≤ (sdatChunk 1 1).params.maxFrames ∧
      framesOf (sdatChunk 1 1) 1 ≤ (sdatChunk 1 1).params.outSize ∧ Memory.wf (sdatChunk 1 1).outMem ∧
      (monoOf (sdatChunk 1 1) 8 1 (framesOf (sdatChunk 1 1) 1)).1.length = framesOf (sdatChunk 1 1) 1 ∧
      (sdatChunk 1 0).totalFrames = 0 ∧ framesOf (sdatChunk 1 0) 1 = 1026 :=
  ⟨atChunk_of_size _ _ 9 rfl (by decide), by decide, by decide, by decide, by decide, by decide,
    by decide, by decide, by decide⟩

/-- SdatDecodesStereo: a frame of `86 10` (ST-2) with a declared count of 1. -/
theorem witness_SdatDecodesStereo :
    let s := { atChunk [0x53, 0x44, 0x41, 0x54, 0, 0, 0, 2, 0x86, 0x10] with channels := 2, totalFrames := 1 }
    AtChunk s 2 8 ∧ s.status.decoded = false ∧ s.channels = 2 ∧ framesOf s 2 ≤ s.params.maxFrames ∧
      2 * framesOf s 2 ≤ s.params.outSize ∧ Memory.wf s.outMem ∧
      (stereoOf s 8 2 (framesOf s 2)).1.length = framesOf s 2 :=
  ⟨atChunk_of_size _ _ 10 rfl (by decide), by decide, by decide, by decide, by decide, by decide,
    by decide⟩

/-- SdatErrorsEndParse: A-CH3, one frame past the ceiling, one sample past OUT, and a declared count not reached in mono and in
stereo (A-ST-PART). -/
theorem witness_SdatErrorsEndParse :
    (AtChunk (sdatChunk 3 1) 1 8 ∧ (sdatChunk 3 1).status.decoded = false ∧ (sdatChunk 3 1).channels ≠ 1 ∧
      (sdatChunk 3 1).channels ≠ 2) ∧
    (AtChunk (sdatChunk 1 10000001) 1 8 ∧
      (sdatChunk 1 10000001).params.maxFrames < framesOf (sdatChunk 1 10000001) 1) ∧
    (AtChunk (sdatChunk 2 524289) 1 8 ∧ framesOf (sdatChunk 2 524289) 1 ≤ (sdatChunk 2 524289).params.maxFrames ∧
      (sdatChunk 2 524289).params.outSize <
        framesOf (sdatChunk 2 524289) 1 * (sdatChunk 2 524289).channels.toNat) ∧
    (AtChunk (sdatChunk 1 2) 1 8 ∧ (sdatChunk 1 2).totalFrames ≠ 0 ∧
      (monoOf (sdatChunk 1 2) 8 1 (framesOf (sdatChunk 1 2) 1)).1.length < framesOf (sdatChunk 1 2) 1) ∧
    (AtChunk (sdatChunk 2 1) 1 8 ∧ (sdatChunk 2 1).channels = 2 ∧
      framesOf (sdatChunk 2 1) 1 ≤ (sdatChunk 2 1).params.maxFrames ∧
      2 * framesOf (sdatChunk 2 1) 1 ≤ (sdatChunk 2 1).params.outSize ∧ Memory.wf (sdatChunk 2 1).outMem ∧
      (stereoOf (sdatChunk 2 1) 8 1 (framesOf (sdatChunk 2 1) 1)).1.length < framesOf (sdatChunk 2 1) 1) :=
  ⟨⟨atChunk_of_size _ _ 9 rfl (by decide), by decide, by decide, by decide⟩,
    ⟨atChunk_of_size _ _ 9 rfl (by decide), by decide⟩,
    ⟨atChunk_of_size _ _ 9 rfl (by decide), by decide, by decide⟩,
    ⟨atChunk_of_size _ _ 9 rfl (by decide), by decide, by decide⟩,
    ⟨atChunk_of_size _ _ 9 rfl (by decide), by decide, by decide, by decide, by decide, by decide⟩⟩

/-- ParsePreChecks: one past `IN_SIZE`, A-11's length, and `"RIFF"` with exactly `MIN_FILE_BYTES`. -/
theorem witness_ParsePreChecks :
    State.reset.params.inSize < ({ State.reset with inLen := 1048577 } : State).inLen.toNat ∧
    (holding (List.replicate 11 0)).inLen.toNat < (holding (List.replicate 11 0)).params.minFileBytes ∧
    (let s := holding [0x52, 0x49, 0x46, 0x46, 0, 0, 0, 0, 0, 0, 0, 0]
     s.inLen.toNat ≤ s.params.inSize ∧ s.params.minFileBytes ≤ s.inLen.toNat ∧ quad s 0 ≠ 0x43415420) := by
  decide

theorem witness_ParseSingleSdatFile :
    let s := holding oneSdat
    s.inLen.toNat = 20 + 1 ∧ 20 + 1 ≤ s.params.inSize ∧ s.params.minFileBytes ≤ 20 + 1 ∧ quad s 0 = 0x43415420 ∧
      quad s 4 = 12 + 1 ∧ quad s 12 = 0x53444154 ∧ quad s 16 = 1 ∧ frameBound s.params 1 ≤ s.params.maxFrames ∧
      s.params.maxFrames < 2 ^ 32 ∧ frameBound s.params 1 ≤ s.params.outSize ∧ Memory.wf s.outMem ∧
      (monoOf s 20 1 (frameBound s.params 1)).1 ≠ [] := by decide

/-- ParseFailureReleases: a PARSE that ends in ERROR. -/
theorem witness_ParseFailureReleases : got (exec .parse State.reset) (fun t => t.status.state == .error) = true := by
  decide

/-- ParseSuccessShape and ParseDependsOnInputAlone: a PARSE that ends DONE, from two states that differ past `IN_LEN`. -/
theorem witness_ParseSuccessShape :
    (holding oneSdat).params.Valid ∧ Memory.wf (holding oneSdat).outMem ∧
      got (exec .parse (holding oneSdat)) (fun t => t.status.state == .done) = true := by decide

theorem witness_ParseDependsOnInputAlone :
    (∀ a < (holding oneSdat).inLen.toNat, Memory.read (holding oneSdat).inMem a =
      Memory.read (bytesAt 0 (oneSdat ++ [0xFF])) a) ∧
    got (exec .parse { holding oneSdat with inMem := bytesAt 0 (oneSdat ++ [0xFF]), outMem := [(0, 5)] })
      (fun t => t.status.state == .done && t.pcm == [-1]) = true ∧
    got (exec .destroy State.reset) (fun t => got (exec .destroy t) fun _ => true) = true := by decide

/-- SlicesAreClamped: a table that is not empty. -/
theorem witness_SlicesAreClamped :
    [({ off := 0, len := 2 } : Slice)] ≠ [] ∧
      finalSlices 1 [{ off := 0, len := 2 }, { off := 0xFFFFFFFF, len := 0xFFFFFFFF }] =
        [{ off := 0, len := 1 }, { off := 0xFFFFFFFF, len := 0 }] := by decide

theorem witness_ParseStepsAgreeWithCommand :
    (holding oneSdat).work = .none ∧
      parseStart (holding oneSdat).beginCommand = .ok { (holding oneSdat).beginCommand with
        sampleRate := 44100, channels := 1, walker := [{ pos := 0, stop := 21 }] } := by decide

/-- StepKeepsGood: reset, about to write the last byte of IN. -/
theorem witness_StepKeepsGood :
    (about [.writeIn 1048575 1]).Good ∧ (about [.writeIn 1048575 1]).nextAccessExists = true ∧
      got (step (about [.writeIn 1048575 1])) (fun t => t.inMem == [(1048575, 1)]) = true := by decide

/-- GoodStatesStepSafely: a PARSE about to run, with another IN that differs past `IN_LEN`. -/
theorem witness_GoodStatesStepSafely :
    let s := { holding oneSdat with host := [.writeReg 0 1] }
    s.Good ∧ s.nextAccessExists = true ∧ (∀ a b rest, s.host ≠ .writeIn a b :: rest) ∧
      (∀ a, s.MayRead a → Memory.read (bytesAt 0 (oneSdat ++ [0xFF])) a = Memory.read s.inMem a) ∧
      s.params.outSize ≤ 1048576 := by
  have agree : ∀ a < 21, Memory.read (bytesAt 0 (oneSdat ++ [0xFF])) a = Memory.read (holding oneSdat).inMem a := by decide
  refine ⟨by decide, rfl, fun a b rest h => by simp at h, fun a h => agree a ?_, by decide⟩
  rcases h.2 with h | h
  · exact h
  · exact absurd h.2 (Nat.not_lt_zero a)

/-- CommandsEndOnce: one command of each outcome. -/
theorem witness_CommandsEndOnce :
    isCommand (.brReadBits 33) = true ∧ got (exec (.brReadBits 33) State.reset) (fun t => t.status.state == .error) = true ∧
      isCommand .parse = true ∧ got (exec .parse (holding oneSdat)) (fun t => t.status.state == .done) = true := by
  decide

/-- OutWrittenOnlyByStreams, BlockNeverWritesInputs, MetadataWrittenOnlyByParse and ReaderNeverGoesBack: instructions and an
access they speak of, each with a next state. -/
theorem witness_whole_machine_rules :
    runsStream .brReadBit = false ∧ Instr.brReadBit ≠ .brInit ∧ got (exec .brReadBit State.reset) (fun _ => true) = true ∧
      Instr.brReadBit ∈ [Instr.brInit, .brReadBit, .unaryZero, .unaryStop, .predK0, .predK1, .predK2, .predK3, .predK4] ∧
      got (exec (.chInit 0) State.reset) (fun _ => true) = true ∧
      Instr.destroy ∈ [Instr.destroy, .decodeMono, .decodeStereo] ∧
      got (exec .decodeMono (asking [0x84] 1)) (fun _ => true) = true ∧
      got (hostAccess (.readOut 0) State.reset) (fun _ => true) = true ∧ got (step State.reset) (fun _ => true) = true := by
  decide

theorem witness_DeadChannelStaysDead :
    let s := { State.reset with ch0 := { Channel.initial with dead := true } }
    runsStream (.chInit 1) = false ∧ chanOf 1 ≠ some .c0 ∧ (s.chan .c0).dead = true ∧
      got (exec (.chInit 1) s) (fun _ => true) = true := by decide

end Sys2Proof.Tests
end

section
/-! PROOFS. 10_state.md, R20 to R32: the register map and the host's accesses to it. -/

namespace Sys2Proof.Machine

open Sys2Proof.Claims

/-! ## Reading REG -/

/-- The number of an append: the high part, shifted by the low part's width, plus the low part. -/
theorem toNat_append_eq_add {v w : Nat} (x : BitVec v) (y : BitVec w) : (x ++ y).toNat = x.toNat * 2 ^ w + y.toNat := by
  rw [BitVec.toNat_append, ← Nat.shiftLeft_add_eq_or_of_lt y.isLt, Nat.shiftLeft_eq]

/-- R22: the fields of `STATUS` by weight. -/
theorem Status.word_toNat (t : Status) :
    t.word.toNat =
      t.state.bits.toNat + 4 * t.trunc.toNat + 8 * t.short.toNat + 16 * t.decoded.toNat + 256 * t.err.toNat := by
  simp only [Status.word, toNat_append_eq_add, BitVec.toNat_ofBool, BitVec.toNat_ofNat]
  omega

/-- From 0x100 up, REG is the slice table. -/
theorem State.readReg_of_le (s : State) {off : Nat} (h : 0x100 ≤ off) :
    s.readReg off = s.readSliceTable (off - 0x100) := by
  unfold State.readReg
  repeat rw [if_neg (by omega)]
  rw [if_pos h]

theorem State.readSliceTable_off (s : State) {i : Nat} (h : i < s.params.maxSlices) :
    s.readSliceTable (8 * i) = ((s.slices[i]?).map Slice.off).getD 0 := by
  unfold State.readSliceTable
  rw [Nat.mul_div_cancel_left i (by omega), if_neg (by omega), if_pos (by omega)]

theorem State.readSliceTable_len (s : State) {i : Nat} (h : i < s.params.maxSlices) :
    s.readSliceTable (8 * i + 4) = ((s.slices[i]?).map Slice.len).getD 0 := by
  have hi : (8 * i + 4) / 8 = i := by omega
  unfold State.readSliceTable
  rw [hi, if_neg (by omega), if_neg (by omega), if_pos (by omega)]

theorem State.readSliceTable_misaligned (s : State) {off : Nat} (h : off % 4 ≠ 0) : s.readSliceTable off = 0 := by
  unfold State.readSliceTable
  rw [if_neg (c := off % 8 = 0) (by omega), if_neg (c := off % 8 = 4) (by omega), ite_self]

theorem State.readSliceTable_past (s : State) {off : Nat} (h : 8 * s.params.maxSlices ≤ off) :
    s.readSliceTable off = 0 := by
  unfold State.readSliceTable
  rw [if_pos (by omega)]

/-- R20, R32: an offset at which no register is mapped reads as 0. -/
theorem State.readReg_unmapped (s : State) {off : Nat} (h : Unmapped s off) : s.readReg off = 0 := by
  by_cases hoff : 0x100 ≤ off
  · rw [s.readReg_of_le hoff]
    rcases h with hmis | hgap | hpast
    · exact s.readSliceTable_misaligned (by omega)
    · omega
    · exact s.readSliceTable_past (by omega)
  · have hgap : off % 4 ≠ 0 ∨ 0x044 ≤ off := by
      rcases h with hmis | hgap | hpast <;> omega
    unfold State.readReg
    repeat rw [if_neg (by omega)]

/-- Settles O3: the named registers by R20's map, `STATUS` by its weights, the slice table entry by entry, and the rest as
unmapped. -/
theorem registerMapReads : Obligations.RegisterMapReads := by
  intro s
  refine ⟨⟨rfl, rfl, rfl, rfl, rfl, rfl, rfl, rfl, rfl, rfl, rfl, rfl, rfl, rfl, rfl, rfl⟩, s.status.word_toNat, ?_,
    fun off h => s.readReg_unmapped h⟩
  intro i hi
  constructor
  · rw [s.readReg_of_le (by omega), Nat.add_sub_cancel_left, s.readSliceTable_off hi]
  · rw [s.readReg_of_le (by omega), show 0x104 + 8 * i - 0x100 = 8 * i + 4 by omega, s.readSliceTable_len hi]

/-! ## The host's accesses to REG -/

/-- Between commands a step is the host's next access (R102). -/
theorem step_hostAccess {s : State} {a : HostAccess} {rest : List HostAccess} (hwork : s.work = .none)
    (hhost : s.host = a :: rest) : step s = hostAccess a { s with host := rest } := by
  unfold step hostStep
  rw [hwork, hhost]

theorem isArgReg_iff (off : Nat) : isArgReg off = true ↔ off ∈ argOffsets := by
  simp [isArgReg, argOffsets, or_assoc]

/-- A host write of an argument register, while not BUSY, is `writeArgReg`. -/
theorem hostAccess_writeReg {s : State} {off : Nat} {v : Word} (hoff : off ≠ 0)
    (hfree : s.status.state ≠ .busy ∨ off ∉ argOffsets) :
    hostAccess (.writeReg off v) s = .next (s.writeArgReg off v) := by
  have hnot : ¬ (isArgReg off && s.status.state == .busy) = true := by
    rw [Bool.and_eq_true, isArgReg_iff, beq_iff_eq]
    tauto
  unfold hostAccess
  simp only [hoff, hnot, if_false]
  rfl

theorem State.readReg_writeArgReg_same (s : State) {off : Nat} (v : Word) (h : off ∈ argOffsets) :
    (s.writeArgReg off v).readReg off = v := by
  simp only [argOffsets, List.mem_cons, List.not_mem_nil, or_false] at h
  rcases h with rfl | rfl | rfl | rfl <;> rfl

theorem State.readReg_writeArgReg_other (s : State) {off off' : Nat} (v : Word) (h : off' ≠ off) :
    (s.writeArgReg off v).readReg off' = s.readReg off' := by
  unfold State.writeArgReg
  split_ifs with h1 h2 h3 h4
  · subst h1; simp only [State.readReg, h, if_false]; rfl
  · subst h2; simp only [State.readReg, h, if_false]; rfl
  · subst h3; simp only [State.readReg, h, if_false]; rfl
  · subst h4; simp only [State.readReg, h, if_false]; rfl
  · rfl

/-- `writeArgReg` changes none but the four argument registers. -/
theorem State.writeArgReg_frame (s : State) (off : Nat) (v : Word) :
    s.writeArgReg off v =
      { s with
        inLen := (s.writeArgReg off v).inLen, argOff := (s.writeArgReg off v).argOff
        argLen := (s.writeArgReg off v).argLen, argN := (s.writeArgReg off v).argN } := by
  unfold State.writeArgReg
  split_ifs <;> rfl

/-- Settles O4: the step is the host's access, and an argument register is the only thing its write can set. -/
theorem hostAccessesRegisters : Obligations.HostAccessesRegisters := by
  refine ⟨?_, ?_, ?_, ?_⟩
  · intro s off rest hwork hhost
    exact ⟨by rw [step_hostAccess hwork hhost]; rfl, s.readReg_unmapped⟩
  · intro s off v rest hwork hidle hhost hoff
    have hne : off ≠ 0 := by rintro rfl; simp [argOffsets] at hoff
    refine ⟨State.writeArgReg { s with host := rest } off v, ?_, ?_, ?_, State.writeArgReg_frame _ off v⟩
    · rw [step_hostAccess hwork hhost]
      exact hostAccess_writeReg hne (.inl hidle)
    · exact State.readReg_writeArgReg_same _ v hoff
    · exact fun off' hoff' => State.readReg_writeArgReg_other { s with host := rest } v hoff'
  · intro s off v rest hwork hhost hne hoff
    have hro : isArgReg off = false := by rwa [← Bool.not_eq_true, isArgReg_iff]
    rw [step_hostAccess hwork hhost, hostAccess_writeReg hne (.inr hoff), State.writeArgReg_of_not _ off v hro]
  · intro s v rest hwork hbusy hhost
    rw [step_hostAccess hwork hhost]
    simp only [hostAccess, issueCommand, hbusy, if_true]

end Sys2Proof.Machine
end

section
/-! PROOFS. What each instruction answers, said once, and its frames: 10_state.md R28, R31 and R40. -/

namespace Sys2Proof.Machine

open Sys2Proof.Claims

variable {s t : State}

/-! ## What an instruction that answers a next state did -/

theorem execBrInit_next (h : execBrInit s = .next t) :
    t = s.beginCommand.raise .badArgument ∨
      (s.argSliceOk = true ∧
        t = { s.beginCommand with br := bindReader s.argOff.toNat s.argLen.toNat, result := 0 }.finish) := by
  unfold execBrInit brInitBody at h
  injection h with h
  split_ifs at h with hok
  · exact .inr ⟨hok, h.symm⟩
  · exact .inl h.symm

theorem execBrReadBit_next (h : execBrReadBit s = .next t) :
    ∃ v, t = { s.beginCommand with br := { s.br with pos := s.br.pos + 1 }, result := v }.finish := by
  unfold execBrReadBit at h
  split_ifs at h
  injection h with h
  exact ⟨_, h.symm⟩

theorem execBrReadBits_next {n : Byte} (h : execBrReadBits n s = .next t) :
    t = s.beginCommand.raise .badArgument ∨
      ∃ v, t = { s.beginCommand with br := { s.br with pos := s.br.pos + n.toNat }, result := v }.finish := by
  unfold execBrReadBits at h
  split_ifs at h <;> injection h with h
  · exact .inl h.symm
  · refine .inr ⟨(readBits s.inMem s.br n.toNat).1, ?_⟩
    rw [← h, ← readBits_snd s.inMem]
    rfl

theorem execChInit_next {c : Byte} (h : execChInit c s = .next t) :
    t = s.beginCommand.raise .badArgument ∨
      ∃ ch, chanOf c = some ch ∧ t = { s.beginCommand.setChan ch initChannel with result := 0 }.finish := by
  unfold execChInit at h
  split at h <;> injection h with h
  case h_1 => exact .inl h.symm
  case h_2 ch hc => exact .inr ⟨ch, hc, h.symm⟩

theorem chDecodeBody_sample (c : Chan) (s : State) :
    (∃ v, chDecodeBody c s = .ok { s.setChan c (sample s.inMem s.params.unaryCap (s.chan c) s.br).chan with
        br := (sample s.inMem s.params.unaryCap (s.chan c) s.br).reader, result := v }) ∨
      chDecodeBody c s = .raised .corrupt { s.setChan c (sample s.inMem s.params.unaryCap (s.chan c) s.br).chan with
        br := (sample s.inMem s.params.unaryCap (s.chan c) s.br).reader } := by
  unfold chDecodeBody
  rcases sample s.inMem s.params.unaryCap (s.chan c) s.br with ⟨br, ch, _ | v⟩
  · exact .inr rfl
  · exact .inl ⟨_, rfl⟩

/-- CH_DECODE_SAMPLE leaves the sample's channel and reader, with its value in `RESULT` or `Corrupt` raised (R152). -/
theorem execChDecodeSample_next {c : Byte} (h : execChDecodeSample c s = .next t) :
    t = s.beginCommand.raise .badArgument ∨
      ∃ ch out, out = sample s.inMem s.params.unaryCap (s.chan ch) s.br ∧
        ((∃ v, t = { s.beginCommand.setChan ch out.chan with br := out.reader, result := v }.finish) ∨
          t = { s.beginCommand.setChan ch out.chan with br := out.reader }.raise .corrupt) := by
  unfold execChDecodeSample at h
  split at h
  next => injection h with h; exact .inl h.symm
  next ch _ =>
    split_ifs at h
    injection h with h
    refine .inr ⟨ch, _, rfl, ?_⟩
    rcases chDecodeBody_sample ch s.beginCommand with ⟨v, hb⟩ | hb
    · exact .inl ⟨v, by rw [← h, hb]; rfl⟩
    · exact .inr (by rw [← h, hb]; rfl)

theorem execUnaryZero_next (h : execUnaryZero s = .next t) : 
    ∃ c u, s.work = .unary c u ∧ t = { s with work := .unary c (unaryZero u) } := by
  unfold execUnaryZero at h
  split at h
  case h_1 c u hw => injection h with h; exact ⟨c, u, hw, h.symm⟩
  case h_2 => cases h

theorem execUnaryStop_next (h : execUnaryStop s = .next t) : 
    ∃ c u, s.work = .unary c u ∧ t = { s with work := .range c u } := by
  unfold execUnaryStop at h
  split at h
  case h_1 c u hw => injection h with h; exact ⟨c, u, hw, h.symm⟩
  case h_2 => cases h

theorem predictorStep_next {update : Five → Word → Five} (h : predictorStep update s = .next t) :
    ∃ c d, s.work = .predict c d ∧
      t = { s.setChan c { s.chan c with s := update (s.chan c).s d } with work := .emit c } := by
  unfold predictorStep at h
  split at h
  case h_1 c d hw => injection h with h; exact ⟨c, d, hw, h.symm⟩
  case h_2 => cases h

/-- A chunk instruction whose handler is a field extractor changes only what the extractor may. -/
theorem withPayload_sameButFields {len : Word} {handler : Nat → State}
    (hf : ∀ pl, SameButFields s (handler pl)) (h : withPayload len s handler = .next t) : SameButFields s t := by
  obtain ⟨l, _, _, _, rfl⟩ := withPayload_next.1 h
  exact hf _

theorem slceStep_frame (pl : Nat) (len : Word) (s : State) : SameButFields s (slceStep pl len s) := by
  rcases slceStep_cases pl len s with h | ⟨-, x, -, h⟩ <;> rw [h] <;> rfl

/-- The four chunks that only store fields. -/
def isFieldChunk : Instr → Bool
  | .glob _ | .head _ | .sinf _ | .slce _ => true
  | _ => false

theorem exec_fieldChunk_frame {i : Instr} (hi : isFieldChunk i = true) (h : exec i s = .next t) :
    SameButFields s t := by
  cases i with
  | glob len => exact withPayload_sameButFields (fun pl => globStep_frame pl len s) h
  | head len => exact withPayload_sameButFields (fun pl => headStep_frame pl len s) h
  | sinf len => exact withPayload_sameButFields (fun pl => sinfStep_frame pl len s) h
  | slce len => exact withPayload_sameButFields (fun pl => slceStep_frame pl len s) h
  | _ => cases hi

/-! ## The frame of the reader commands, the channel commands and the symbols of a sample -/

/-- Only `STATUS`, `RESULT`, the reader, the channels and the place inside the command differ. -/
def SameButSample (s t : State) : Prop :=
  t = { s with
    status := t.status, result := t.result, br := t.br, ch0 := t.ch0, ch1 := t.ch1, work := t.work }

/-- The reader commands, the channel commands, the unary bits and the predictor cases. -/
def isSampleInstr : Instr → Bool
  | .brInit | .brReadBit | .brReadBits _ | .chInit _ | .chDecodeSample _ | .unaryZero | .unaryStop => true
  | .predK0 | .predK1 | .predK2 | .predK3 | .predK4 => true
  | _ => false

theorem predictorStep_frame {update : Five → Word → Five} (h : predictorStep update s = .next t) :
    SameButSample s t := by
  obtain ⟨c, d, -, rfl⟩ := predictorStep_next h
  cases c <;> rfl

theorem execChDecodeSample_frame {c : Byte} (h : execChDecodeSample c s = .next t) : SameButSample s t := by
  rcases execChDecodeSample_next h with rfl | ⟨ch, out, -, ⟨v, rfl⟩ | rfl⟩
  · rfl
  · cases ch <;> rfl
  · cases ch <;> rfl

theorem exec_sampleInstr_frame {i : Instr} (hi : isSampleInstr i = true) (h : exec i s = .next t) :
    SameButSample s t := by
  cases i with
  | brInit => rcases execBrInit_next h with rfl | ⟨-, rfl⟩ <;> rfl
  | brReadBit => obtain ⟨v, rfl⟩ := execBrReadBit_next h; rfl
  | brReadBits n => rcases execBrReadBits_next h with rfl | ⟨v, rfl⟩ <;> rfl
  | chInit c =>
    rcases execChInit_next h with rfl | ⟨ch, -, rfl⟩
    · rfl
    · cases ch <;> rfl
  | chDecodeSample c => exact execChDecodeSample_frame h
  | unaryZero => obtain ⟨c, u, -, rfl⟩ := execUnaryZero_next h; rfl
  | unaryStop => obtain ⟨c, u, -, rfl⟩ := execUnaryStop_next h; rfl
  | predK0 | predK1 | predK2 | predK3 | predK4 => exact predictorStep_frame h
  | _ => cases hi

/-! ## Metadata (R28) -/

theorem SameButSample.sameMetadata (h : SameButSample s t) : SameMetadata s t := by
  rw [h]
  exact ⟨rfl, rfl, rfl, rfl, rfl, rfl, rfl, rfl, rfl, rfl⟩

theorem released_release (s : State) : Released s.release := ⟨rfl, rfl, rfl, rfl, rfl, rfl, rfl, rfl, rfl, rfl⟩

/-- How a decode command's body ends: on the released state with a stream run, or with `BadArgument` (R164, R165). -/
theorem decodeBody_cases (ch : Nat) (s : State) :
    (s.argSliceOk = true ∧ s.argFramesOk ch = true ∧
      decodeBody ch s = .ok { (stream s.release.clearFlags s.argOff.toNat s.argLen.toNat ch s.argN.toNat).2 with
        result := BitVec.ofNat 32 (stream s.release.clearFlags s.argOff.toNat s.argLen.toNat ch s.argN.toNat).1 }) ∨
      decodeBody ch s = .raised .badArgument s.release.clearFlags := by
  by_cases hok : (s.argSliceOk && s.argFramesOk ch) = true
  · obtain ⟨hslice, hframes⟩ := Bool.and_eq_true_iff.1 hok
    exact .inl ⟨hslice, hframes, if_pos hok⟩
  · exact .inr (if_neg hok)

theorem endCommand_decodeBody_released (ch : Nat) (s : State) : Released (endCommand (decodeBody ch s)) := by
  rcases decodeBody_cases ch s with ⟨-, -, h⟩ | h <;> rw [h]
  · obtain ⟨-, br, ch0, ch1, out, -, -, -, hs⟩ :=
      stream_cases s.release.clearFlags s.argOff.toNat s.argLen.toNat ch s.argN.toNat
    rw [hs]
    exact released_release s
  · exact released_release s

/-- Settles O58: the frame of the instructions of a sample, and the release at the start of the three commands. -/
theorem metadataWrittenOnlyByParse : Obligations.MetadataWrittenOnlyByParse := by
  constructor
  · intro i s t h hi
    have hsample : isSampleInstr i = true := by
      rcases hi with hi | ⟨b, rfl | rfl | rfl⟩
      · simp only [List.mem_cons, List.not_mem_nil, or_false] at hi
        rcases hi with rfl | rfl | rfl | rfl | rfl | rfl | rfl | rfl | rfl <;> rfl
      all_goals rfl
    exact (exec_sampleInstr_frame hsample h).sameMetadata
  · intro i s t h hi
    simp only [List.mem_cons, List.not_mem_nil, or_false] at hi
    rcases hi with rfl | rfl | rfl <;> injection h with h <;> subst h
    · exact released_release s
    · exact endCommand_decodeBody_released 1 s.beginCommand
    · exact endCommand_decodeBody_released 2 s.beginCommand

/-! ## The reader (R31) -/

theorem execChDecodeSample_reads {c : Byte} (h : execChDecodeSample c s = .next t) : ReadsOn s.br t.br := by
  rcases execChDecodeSample_next h with rfl | ⟨ch, out, rfl, ⟨v, rfl⟩ | rfl⟩
  · exact ReadsOn.refl s.br
  · exact sample_reads _ _ _ _
  · exact sample_reads _ _ _ _

/-- An instruction that does not bind the reader reads on. -/
theorem exec_reads {i : Instr} (hi : runsStream i = false) (hbind : i ≠ .brInit) (h : exec i s = .next t) :
    ReadsOn s.br t.br := by
  have of_eq : t.br = s.br → ReadsOn s.br t.br := fun heq => heq ▸ ReadsOn.refl s.br
  cases i with
  | parse | decodeMono | decodeStereo | cat | sdat => cases hi
  | brInit => exact absurd rfl hbind
  | destroy => injection h with h; exact of_eq (h ▸ rfl)
  | brReadBit => obtain ⟨v, rfl⟩ := execBrReadBit_next h; exact ReadsOn.forward s.br 1
  | brReadBits n =>
    rcases execBrReadBits_next h with rfl | ⟨v, rfl⟩
    · exact ReadsOn.refl s.br
    · exact ReadsOn.forward s.br n.toNat
  | chInit c =>
    rcases execChInit_next h with rfl | ⟨ch, -, rfl⟩
    · exact ReadsOn.refl s.br
    · exact of_eq (s.beginCommand.setChan_br ch initChannel)
  | chDecodeSample c => exact execChDecodeSample_reads h
  | glob | head | sinf | slce => exact of_eq (by rw [exec_fieldChunk_frame rfl h])
  | unknownTag tag len => injection h with h; exact of_eq (h ▸ rfl)
  | unaryZero => obtain ⟨c, u, -, rfl⟩ := execUnaryZero_next h; exact ReadsOn.refl s.br
  | unaryStop => obtain ⟨c, u, -, rfl⟩ := execUnaryStop_next h; exact ReadsOn.refl s.br
  | predK0 | predK1 | predK2 | predK3 | predK4 =>
    obtain ⟨c, d, -, rfl⟩ := predictorStep_next h
    exact of_eq (s.setChan_br c _)

/-- Settles O59: by the instruction, each keeping the reader or reading on. -/
theorem readerNeverGoesBack : Obligations.ReaderNeverGoesBack :=
  fun _ _ _ hi hbind h => exec_reads hi hbind h

/-! ## Dead channels (R40) -/

theorem State.dead_congr {c : Chan} (h : (s.chan c).dead = true) (h0 : t.ch0 = s.ch0) (h1 : t.ch1 = s.ch1) :
    (t.chan c).dead = true := by
  cases c
  · rwa [State.chan_c0, h0]
  · rwa [State.chan_c1, h1]

/-- A channel put in place of one leaves a dead channel dead when the one put in its own place is dead. -/
theorem State.setChan_dead {c d : Chan} {x : Channel} (hx : d = c → x.dead = true)
    (hdead : (s.chan c).dead = true) : ((s.setChan d x).chan c).dead = true := by
  by_cases hdc : d = c
  · subst hdc
    rw [State.chan_setChan]
    exact hx rfl
  · have hother : (s.setChan d x).chan c = s.chan c := by cases c <;> cases d <;> simp at hdc ⊢
    rw [hother]
    exact hdead

/-- A sample on a dead channel leaves it dead (R121). -/
theorem sample_dead (m : Memory 8) (cap : Nat) {ch : Channel} (br : BitReader) (h : ch.dead = true) :
    (sample m cap ch br).chan.dead = true := by
  rcases sample_cases m cap ch br with ⟨br', hs, -⟩ | ⟨r, br', hlive, -⟩
  · rw [hs]
    rfl
  · rw [h] at hlive
    cases hlive

theorem predictorStep_dead {update : Five → Word → Five} {c : Chan} (hdead : (s.chan c).dead = true)
    (h : predictorStep update s = .next t) : (t.chan c).dead = true := by
  obtain ⟨d, x, -, rfl⟩ := predictorStep_next h
  have hset := State.setChan_dead (d := d) (x := { s.chan d with s := update (s.chan d).s x })
    (by rintro rfl; exact hdead) hdead
  exact State.dead_congr hset rfl rfl

theorem execChInit_dead {op : Byte} {c : Chan} (hother : chanOf op ≠ some c) (hdead : (s.chan c).dead = true)
    (h : execChInit op s = .next t) : (t.chan c).dead = true := by
  have hbegin : (s.beginCommand.chan c).dead = true := State.dead_congr hdead rfl rfl
  rcases execChInit_next h with rfl | ⟨d, hd, rfl⟩
  · exact State.dead_congr hdead rfl rfl
  · have hset := State.setChan_dead (d := d) (x := initChannel) (by rintro rfl; exact absurd hd hother) hbegin
    exact State.dead_congr hset rfl rfl

theorem execChDecodeSample_dead {op : Byte} {c : Chan} (hdead : (s.chan c).dead = true)
    (h : execChDecodeSample op s = .next t) : (t.chan c).dead = true := by
  have hbegin : (s.beginCommand.chan c).dead = true := State.dead_congr hdead rfl rfl
  rcases execChDecodeSample_next h with rfl | ⟨d, out, rfl, ht⟩
  · exact hbegin
  · have hset := State.setChan_dead (s := s.beginCommand) (d := d)
      (x := (sample s.inMem s.params.unaryCap (s.chan d) s.br).chan)
      (by rintro rfl; exact sample_dead _ _ _ hdead) hbegin
    rcases ht with ⟨v, rfl⟩ | rfl <;> exact State.dead_congr hset rfl rfl

/-- An instruction that neither runs a stream nor initialises the channel leaves a dead channel dead. -/
theorem exec_dead {i : Instr} {c : Chan} (hi : runsStream i = false) (hinit : ∀ op, i = .chInit op → chanOf op ≠ some c)
    (hdead : (s.chan c).dead = true) (h : exec i s = .next t) : (t.chan c).dead = true := by
  have of_eq : t.ch0 = s.ch0 → t.ch1 = s.ch1 → (t.chan c).dead = true :=
    State.dead_congr hdead
  cases i with
  | parse | decodeMono | decodeStereo | cat | sdat => cases hi
  | brInit => rcases execBrInit_next h with rfl | ⟨-, rfl⟩ <;> exact of_eq rfl rfl
  | destroy => injection h with h; exact of_eq (h ▸ rfl) (h ▸ rfl)
  | brReadBit => obtain ⟨v, rfl⟩ := execBrReadBit_next h; exact of_eq rfl rfl
  | brReadBits n => rcases execBrReadBits_next h with rfl | ⟨v, rfl⟩ <;> exact of_eq rfl rfl
  | chInit op => exact execChInit_dead (hinit op rfl) hdead h
  | chDecodeSample op => exact execChDecodeSample_dead hdead h
  | glob | head | sinf | slce =>
    have hframe := exec_fieldChunk_frame rfl h
    exact of_eq (by rw [hframe]) (by rw [hframe])
  | unknownTag tag len => injection h with h; exact of_eq (h ▸ rfl) (h ▸ rfl)
  | unaryZero => obtain ⟨d, u, -, rfl⟩ := execUnaryZero_next h; exact of_eq rfl rfl
  | unaryStop => obtain ⟨d, u, -, rfl⟩ := execUnaryStop_next h; exact of_eq rfl rfl
  | predK0 | predK1 | predK2 | predK3 | predK4 => exact predictorStep_dead hdead h

/-- Settles O60: by the instruction; a sample on a dead channel fails at once, and CH_INIT names the other channel. -/
theorem deadChannelStaysDead : Obligations.DeadChannelStaysDead :=
  fun _ _ _ _ hi hinit hdead h => exec_dead hi hinit hdead h

end Sys2Proof.Machine
end

section
/-! PROOFS. What a sample and a stream keep of a good channel, reader and OUT (R36, R38, R61, R71). -/

namespace Sys2Proof.Machine

/-! ## The range value and the bits accumulated (R38) -/

/-- `rv = 2^(ba+1)` with `-1 ≤ ba ≤ 30`, by the exponent `ba + 1`. -/
def IsRange (rv : Word) (ba : Int) : Prop := ∃ k : Nat, k ≤ 31 ∧ rv = BitVec.ofNat 32 (2 ^ k) ∧ ba = k - 1

theorem isRange_iff {rv : Word} {ba : Int} :
    IsRange rv ba ↔ (-1 ≤ ba ∧ ba ≤ 30) ∧ rv = BitVec.ofNat 32 (2 ^ (ba + 1).toNat) := by
  constructor
  · rintro ⟨k, hk, rfl, rfl⟩
    exact ⟨by omega, by simp⟩
  · rintro ⟨hba, hrv⟩
    exact ⟨(ba + 1).toNat, by omega, hrv, by omega⟩

theorem ofNat_two_pow_shiftLeft (k : Nat) : BitVec.ofNat 32 (2 ^ k) <<< 1 = BitVec.ofNat 32 (2 ^ (k + 1)) := by
  apply BitVec.eq_of_toNat_eq
  simp only [BitVec.toNat_shiftLeft, BitVec.toNat_ofNat, Nat.shiftLeft_eq, pow_succ]
  omega

theorem ofNat_two_pow_shiftRight {k : Nat} (hk : k < 31) :
    BitVec.ofNat 32 (2 ^ (k + 1)) >>> 1 = BitVec.ofNat 32 (2 ^ k) := by
  have hlt : 2 ^ (k + 1) < 2 ^ 32 := Nat.pow_lt_pow_right (by omega) (by omega)
  apply BitVec.eq_of_toNat_eq
  simp only [BitVec.toNat_ushiftRight, BitVec.toNat_ofNat, Nat.shiftRight_eq_div_pow, pow_succ] at hlt ⊢
  omega

theorem normaliseUp_isRange {cs : Word} {f : Nat} {r : Word} {nb : Int} {p : Word × Int} (h : IsRange r nb)
    (hup : normaliseUp cs f r nb = some p) : IsRange p.1 p.2 := by
  induction f generalizing r nb with
  | zero => cases hup
  | succ f ih =>
    unfold normaliseUp at hup
    split_ifs at hup with hle hzero
    · obtain ⟨k, hk, rfl, rfl⟩ := h
      have hk31 : k ≠ 31 := by
        rintro rfl
        exact hzero rfl
      exact ih ⟨k + 1, by omega, ofNat_two_pow_shiftLeft k, by omega⟩ hup
    · injection hup with hup
      exact hup ▸ h

/-- The loop of R128 from `t = 2^k` and `nb = k`: it stops before `t` would become 0, so `k` halvings are enough. -/
theorem normaliseDown_isRange (cs : Word) {f k : Nat} (hf : k < f) (hk : k ≤ 31) :
    IsRange (normaliseDown cs f (BitVec.ofNat 32 (2 ^ k)) k).1 (normaliseDown cs f (BitVec.ofNat 32 (2 ^ k)) k).2 := by
  induction f generalizing k with
  | zero => omega
  | succ f ih =>
    unfold normaliseDown
    split_ifs with hle
    · exact ⟨k, hk, rfl, rfl⟩
    · cases k with
      | zero => exact absurd (Nat.zero_le _) hle
      | succ k =>
        rw [ofNat_two_pow_shiftRight (by omega), show ((k + 1 : Nat) : Int) - 1 = k by omega]
        exact ih (by omega) (by omega)

theorem normalise_isRange {cs rv : Word} {ba : Int} {p : Word × Int} (h : IsRange rv ba)
    (hn : normalise cs rv ba = some p) : IsRange p.1 p.2 := by
  unfold normalise at hn
  split_ifs at hn
  · exact normaliseUp_isRange h hn
  · injection hn with hn
    obtain ⟨k, hk, rfl, rfl⟩ := h
    rw [← hn, show (k : Int) - 1 + 1 = k by omega]
    exact normaliseDown_isRange cs (by omega) hk

/-! ## The predictor registers (R36) -/

theorem even_iff {x : Word} : x.getLsbD 0 = false ↔ x.toNat % 2 = 0 := by
  rw [BitVec.getLsbD, Nat.testBit_zero, decide_eq_false_iff_not]
  omega

theorem even_add {x y : Word} (hx : x.getLsbD 0 = false) (hy : y.getLsbD 0 = false) : (x + y).getLsbD 0 = false := by
  rw [even_iff] at *
  bv_omega

theorem even_sub {x y : Word} (hx : x.getLsbD 0 = false) (hy : y.getLsbD 0 = false) : (x - y).getLsbD 0 = false := by
  rw [even_iff] at *
  bv_omega

/-- R98: the lowest bit of `-(val AND 1)` is that of `val`, so the signed delta is even. -/
theorem zigzag_even (val : Word) : (zigzag val).getLsbD 0 = false := by
  simp [zigzag, BitVec.getElem_neg]

theorem predictK0_even {o : Five} {d : Word} (ho : o.Even) (hd : d.getLsbD 0 = false) : (predictK0 o d).Even := by
  obtain ⟨h0, h1, h2, h3, -⟩ := ho
  have e1 := even_sub hd h0
  have e2 := even_sub e1 h1
  have e3 := even_sub e2 h2
  exact ⟨hd, e1, e2, e3, even_sub e3 h3⟩

theorem predictK1_even {o : Five} {d : Word} (ho : o.Even) (hd : d.getLsbD 0 = false) : (predictK1 o d).Even := by
  obtain ⟨h0, h1, h2, h3, -⟩ := ho
  have e2 := even_sub hd h1
  have e3 := even_sub e2 h2
  exact ⟨even_add h0 hd, hd, e2, e3, even_sub e3 h3⟩

theorem predictK2_even {o : Five} {d : Word} (ho : o.Even) (hd : d.getLsbD 0 = false) : (predictK2 o d).Even := by
  obtain ⟨h0, h1, h2, h3, -⟩ := ho
  have e1 := even_add h1 hd
  have e3 := even_sub hd h2
  exact ⟨even_add h0 e1, e1, hd, e3, even_sub e3 h3⟩

theorem predictK3_even {o : Five} {d : Word} (ho : o.Even) (hd : d.getLsbD 0 = false) : (predictK3 o d).Even := by
  obtain ⟨h0, h1, h2, h3, -⟩ := ho
  have e2 := even_add h2 hd
  have e1 := even_add h1 e2
  exact ⟨even_add h0 e1, e1, e2, hd, even_sub hd h3⟩

theorem predictK4_even {o : Five} {d : Word} (ho : o.Even) (hd : d.getLsbD 0 = false) : (predictK4 o d).Even := by
  obtain ⟨h0, h1, h2, h3, -⟩ := ho
  have e3 := even_add h3 hd
  have e2 := even_add h2 e3
  have e1 := even_add h1 e2
  exact ⟨even_add h0 e1, e1, e2, e3, hd⟩

theorem predict_even (k : Nat) {o : Five} {d : Word} (ho : o.Even) (hd : d.getLsbD 0 = false) : (predict k o d).Even := by
  unfold predict
  split
  · exact predictK0_even ho hd
  · exact predictK1_even ho hd
  · exact predictK2_even ho hd
  · exact predictK3_even ho hd
  · exact predictK4_even ho hd

/-! ## A sample -/

theorem Channel.good_iff {ch : Channel} : ch.Good ↔ IsRange ch.rv ch.ba ∧ ch.s.Even := by
  rw [isRange_iff, and_assoc]

theorem initChannel_good : initChannel.Good := by decide

theorem rangeDecode_good {m : Memory 8} {rv : Word} {ba : Int} {u : UnaryRegs} {br br' : BitReader} {r : RangeOut}
    (h : IsRange rv ba) (hd : rangeDecode m rv ba u br = (some r, br')) : IsRange r.rv r.ba ∧ r.d.getLsbD 0 = false := by
  unfold rangeDecode at hd
  split at hd
  case h_1 => cases hd
  case h_2 r' nb hn =>
    injection hd with hr
    injection hr with hr
    subst hr
    exact ⟨normalise_isRange h hn, zigzag_even _⟩

theorem failSample_good {ch : Channel} (h : ch.Good) (br : BitReader) : (failSample ch br).chan.Good := h

@[simp] theorem completeSample_s (ch : Channel) (r : RangeOut) (br : BitReader) :
    (completeSample ch r br).chan.s = predict (energyIndex ch.e) ch.s r.d := by
  simp only [completeSample]

theorem completeSample_good {ch : Channel} {r : RangeOut} (h : ch.Good) (hr : IsRange r.rv r.ba)
    (hd : r.d.getLsbD 0 = false) (br : BitReader) : (completeSample ch r br).chan.Good := by
  rw [Channel.good_iff, completeSample_rv, completeSample_ba, completeSample_s]
  exact ⟨hr, predict_even _ (Channel.good_iff.1 h).2 hd⟩

/-- A sample keeps a channel good, whether it completes or fails. -/
theorem sample_good (m : Memory 8) (cap : Nat) {ch : Channel} (h : ch.Good) (br : BitReader) :
    (sample m cap ch br).chan.Good := by
  unfold sample
  split_ifs
  · exact failSample_good h br
  · split
    · exact failSample_good h _
    · split
      next => exact failSample_good h _
      next r br2 hr =>
        obtain ⟨hrange, hd⟩ := rangeDecode_good (Channel.good_iff.1 h).1 hr
        exact completeSample_good h hrange hd br2

/-! ## A stream -/

/-- Every listed slot of OUT is below a bound. -/
def OutBelow (bound : Nat) (m : Memory 16) : Prop := ∀ c ∈ m, c.1 < bound

theorem OutBelow.memWrite {bound i : Nat} {m : Memory 16} (h : OutBelow bound m) (hi : i < bound) (v : Sample) :
    OutBelow bound (memWrite m i v) := by
  intro c hc
  rcases Memory.mem_write hc with rfl | hc
  · exact hi
  · exact h c hc

/-- What a stream loop keeps: good channels, and OUT listed below a bound. -/
def StreamRegs.Good (bound : Nat) (r : StreamRegs) : Prop := r.ch0.Good ∧ r.ch1.Good ∧ OutBelow bound r.out

theorem monoLoop_good (m : Memory 8) (cap : Nat) {bound k n : Nat} (hk : n + k ≤ bound) {r : StreamRegs}
    (h : r.Good bound) : (monoLoop m cap k n r).2.Good bound := by
  induction k generalizing n r with
  | zero => exact h
  | succ k ih =>
    obtain ⟨h0, h1, hout⟩ := h
    have hs := sample_good m cap h0 r.br
    unfold monoLoop
    split
    next br ch heq =>
      rw [heq] at hs
      exact ⟨hs, h1, hout⟩
    next br ch v heq =>
      rw [heq] at hs
      exact ih (by omega) ⟨hs, h1, hout.memWrite (by omega) v⟩

theorem stereoLoop_good (m : Memory 8) (cap : Nat) {bound k n : Nat} (hk : 2 * (n + k) ≤ bound) {r : StreamRegs}
    (h : r.Good bound) : (stereoLoop m cap k n r).2.Good bound := by
  induction k generalizing n r with
  | zero => exact h
  | succ k ih =>
    obtain ⟨h0, h1, hout⟩ := h
    have hs := sample_good m cap h0 r.br
    unfold stereoLoop
    split
    next br ch0 heq =>
      rw [heq] at hs
      exact ⟨hs, h1, hout⟩
    next br ch0 l heq =>
      rw [heq] at hs
      have hs2 := sample_good m cap h1 br
      split
      next br' ch1 heq2 =>
        rw [heq2] at hs2
        exact ⟨hs, hs2, hout⟩
      next br' ch1 dl heq2 =>
        rw [heq2] at hs2
        exact ih (by omega) ⟨hs, hs2, (hout.memWrite (by omega) l).memWrite (by omega) _⟩

/-- A stream whose frames fit below a bound leaves good channels and OUT listed below it. -/
theorem stream_good {s : State} (off len : Nat) {bound ch n : Nat} (hch : ch = 1 ∨ ch = 2) (hn : n * ch ≤ bound)
    (hout : OutBelow bound s.outMem) :
    (stream s off len ch n).2.ch0.Good ∧ (stream s off len ch n).2.ch1.Good ∧
      OutBelow bound (stream s off len ch n).2.outMem := by
  have hstart : StreamRegs.Good bound
      { br := bindReader off len, ch0 := initChannel, ch1 := initChannel, out := s.outMem } :=
    ⟨initChannel_good, initChannel_good, hout⟩
  unfold stream
  rcases hch with rfl | rfl
  · have h := monoLoop_good s.inMem s.params.unaryCap (k := n) (n := 0) (by omega) hstart
    simp only [if_true]
    split_ifs <;> exact h
  · have h := stereoLoop_good s.inMem s.params.unaryCap (k := n) (n := 0) (by omega) hstart
    simp only [OfNat.ofNat_ne_one, if_false]
    split_ifs <;> exact h

end Sys2Proof.Machine
end

section
/-! PROOFS. The machine's invariant (O53): what holds inside a command, inside PARSE's walk, and between commands. -/

namespace Sys2Proof.Machine

variable {s t : State}

/-! ## Inside a command -/

/-- What every command keeps while it runs: the invariant without the walker, the clamp of the slices and `STATE`. -/
structure State.InCommand (s : State) : Prop where
  params : s.params.Valid
  work : s.work = .none
  noError : s.status.err = 0
  metaWidths : s.MetaGood
  sliceCount : s.slices.length ≤ s.params.maxSlices
  pcmFits : s.pcmFrames.toNat * s.decChannels.toNat ≤ s.params.outSize
  memory : s.MemoryGood
  reader : s.readerOk = true
  left : s.ch0.Good
  right : s.ch1.Good

/-- A state inside a command that may end it as it stands: no level open, every slice clamped. -/
def State.Settled (s : State) : Prop :=
  s.InCommand ∧ s.walker = [] ∧ ∀ x ∈ s.slices, x.Clamped s.pcmFrames

/-- Inside PARSE's walk, with these levels open: each lies in IN, and no frame is counted before the SDAT latch is set. -/
def State.InWalk (s : State) (levels : List Level) : Prop :=
  s.InCommand ∧ s.walker = levels ∧ (∀ l ∈ levels, l.stop ≤ s.params.inSize) ∧
    (s.status.decoded = false → s.pcmFrames = 0)

/-- A result meets one predicate when it is without an error, and another when it raised; the kind that is never raised (R252)
is excluded. -/
def CmdResult.Meets (onOk onRaise : State → Prop) : CmdResult → Prop
  | .ok s => onOk s
  | .raised e s => e ≠ .truncatedChunk ∧ onRaise s

/-! ## Beginning and ending -/

theorem State.Good.beginCommand (h : s.Good) : s.beginCommand.Settled := by
  obtain ⟨hparams, hwork, hwalker, -, hmeta, ⟨hcount, hclamped⟩, hpcm, hmem, hreader, h0, h1⟩ := h
  exact ⟨⟨hparams, hwork, rfl, hmeta, hcount, hpcm, hmem, hreader, h0, h1⟩, hwalker, hclamped⟩

theorem State.Settled.good (h : s.Settled) (hstatus : t.status.Good)
    (hrest : t = { s with status := t.status }) : t.Good := by
  obtain ⟨hc, hwalker, hclamped⟩ := h
  rw [hrest]
  exact ⟨hc.params, hc.work, hwalker, hstatus, hc.metaWidths, ⟨hc.sliceCount, hclamped⟩, hc.pcmFits, hc.memory,
    hc.reader, hc.left, hc.right⟩

theorem State.Settled.finish (h : s.Settled) : s.finish.Good := by
  have herr : s.finish.status.err = 0 := h.1.noError
  exact h.good ⟨nofun, by rw [herr]; decide, nofun, fun hne => absurd herr hne⟩ rfl

theorem ErrorKind.code_mem {e : ErrorKind} (he : e ≠ .truncatedChunk) : e.code ∈ errCodes ∧ e.code ≠ 0 := by
  cases e with
  | truncatedChunk => exact absurd rfl he
  | _ => decide

theorem State.Settled.raise (h : s.Settled) {e : ErrorKind} (he : e ≠ .truncatedChunk) : (s.raise e).Good := by
  obtain ⟨hmem, hne⟩ := ErrorKind.code_mem he
  exact h.good ⟨nofun, hmem, iff_of_true rfl hne⟩ rfl

theorem endCommand_good {r : CmdResult} (h : r.Meets State.Settled State.Settled) : (endCommand r).Good := by
  cases r with
  | ok s => exact State.Settled.finish h
  | raised e s => exact h.2.raise h.1

theorem State.InCommand.release (h : s.InCommand) : s.release.InCommand :=
  { h with
    metaWidths := by simp [State.MetaGood]
    sliceCount := Nat.zero_le _
    pcmFits := Nat.zero_le _ }

theorem State.InCommand.release_settled (h : s.InCommand) (hwalker : s.walker = []) : s.release.Settled :=
  ⟨h.release, hwalker, nofun⟩

/-- R188, R230: a raise unwinds the walk and releases. -/
theorem endParse_good {r : CmdResult} (h : r.Meets State.Settled State.InCommand) : (endParse r).Good := by
  cases r with
  | ok s => exact State.Settled.finish h
  | raised e s =>
    have hclosed : State.InCommand { s with walker := [] } := { h.2 with }
    exact (hclosed.release_settled rfl).raise h.1

/-! ## Reader and channel commands -/

theorem State.readerOk_iff : s.readerOk = true ↔ s.br.len = 0 ∨ s.br.base + s.br.len ≤ s.params.inSize := by
  simp [State.readerOk]

theorem State.argSliceOk_iff :
    s.argSliceOk = true ↔ s.inLen.toNat ≤ s.params.inSize ∧ s.argOff.toNat + s.argLen.toNat ≤ s.inLen.toNat := by
  simp [State.argSliceOk, State.inLenOk]

theorem State.argFramesOk_iff (ch : Nat) : s.argFramesOk ch = true ↔ ch * s.argN.toNat ≤ s.params.outSize := by
  simp [State.argFramesOk]

/-- A reader that read on is bound to the same slice. -/
theorem State.InCommand.reader_of_readsOn (h : s.InCommand) {br : BitReader} (hr : ReadsOn s.br br) :
    State.readerOk { s with br := br } = true := by
  obtain ⟨hbase, hlen, -⟩ := hr
  rw [State.readerOk_iff, hbase, hlen]
  exact State.readerOk_iff.1 h.reader

theorem State.Settled.setReader (h : s.Settled) {br : BitReader} (v : Word)
    (hr : State.readerOk { s with br := br } = true) : State.Settled { s with br := br, result := v } :=
  ⟨{ h.1 with reader := hr }, h.2⟩

theorem State.Settled.readOn (h : s.Settled) {br : BitReader} (v : Word) (hr : ReadsOn s.br br) :
    State.Settled { s with br := br, result := v } :=
  h.setReader v (h.1.reader_of_readsOn hr)

theorem State.InCommand.chan (h : s.InCommand) (c : Chan) : (s.chan c).Good := by
  cases c
  · exact h.left
  · exact h.right

theorem State.Settled.setChan (h : s.Settled) (c : Chan) {x : Channel} (hx : x.Good) : (s.setChan c x).Settled := by
  cases c
  · exact ⟨{ h.1 with left := hx }, h.2⟩
  · exact ⟨{ h.1 with right := hx }, h.2⟩

theorem execBrInit_good (h : s.Good) (hnext : execBrInit s = .next t) : t.Good := by
  rcases execBrInit_next hnext with rfl | ⟨hok, rfl⟩
  · exact h.beginCommand.raise nofun
  · obtain ⟨hlen, hslice⟩ := State.argSliceOk_iff.1 hok
    refine (h.beginCommand.setReader 0 (State.readerOk_iff.2 (.inr ?_))).finish
    exact hslice.trans hlen

theorem execBrReadBit_good (h : s.Good) (hnext : execBrReadBit s = .next t) : t.Good := by
  obtain ⟨v, rfl⟩ := execBrReadBit_next hnext
  exact (h.beginCommand.readOn v (ReadsOn.forward s.br 1)).finish

theorem execBrReadBits_good {n : Byte} (h : s.Good) (hnext : execBrReadBits n s = .next t) : t.Good := by
  rcases execBrReadBits_next hnext with rfl | ⟨v, rfl⟩
  · exact h.beginCommand.raise nofun
  · exact (h.beginCommand.readOn v (ReadsOn.forward s.br n.toNat)).finish

theorem State.Settled.setResult (h : s.Settled) (v : Word) : State.Settled { s with result := v } :=
  ⟨{ h.1 with }, h.2⟩

theorem execChInit_good {c : Byte} (h : s.Good) (hnext : execChInit c s = .next t) : t.Good := by
  rcases execChInit_next hnext with rfl | ⟨ch, -, rfl⟩
  · exact h.beginCommand.raise nofun
  · exact ((h.beginCommand.setChan ch initChannel_good).setResult 0).finish

theorem execChDecodeSample_good {c : Byte} (h : s.Good) (hnext : execChDecodeSample c s = .next t) : t.Good := by
  rcases execChDecodeSample_next hnext with rfl | ⟨ch, out, rfl, ht⟩
  · exact h.beginCommand.raise nofun
  · have hgood := sample_good s.inMem s.params.unaryCap (h.beginCommand.1.chan ch) s.br
    have hreads := sample_reads s.inMem s.params.unaryCap (s.chan ch) s.br
    have hset := h.beginCommand.setChan ch hgood
    rcases ht with ⟨v, rfl⟩ | rfl
    · exact (hset.readOn v (by simpa using hreads)).finish
    · exact (hset.readOn _ (by simpa using hreads)).raise nofun

/-! ## Streams -/

/-- A stream over a slice of IN, whose frames fit in OUT, keeps what a command keeps. -/
theorem State.InCommand.stream (h : s.InCommand) {off len ch n : Nat} (hch : ch = 1 ∨ ch = 2)
    (hin : off + len ≤ s.params.inSize) (hout : n * ch ≤ s.params.outSize) : (stream s off len ch n).2.InCommand := by
  obtain ⟨hinMem, houtMem, hbelow⟩ := h.memory
  obtain ⟨hleft, hright, hslots⟩ := stream_good (s := s) off len hch hout hbelow
  obtain ⟨-, br, ch0, ch1, out, hbase, hlen, hwf, heq⟩ := stream_cases s off len ch n
  rw [heq] at hleft hright hslots ⊢
  exact { h with
    memory := ⟨hinMem, hwf houtMem, hslots⟩
    reader := State.readerOk_iff.2 (.inr (by simpa [hbase, hlen] using hin))
    left := hleft
    right := hright }

theorem State.InCommand.clearFlags (h : s.InCommand) : s.clearFlags.InCommand := { h with }

theorem decodeBody_meets {ch : Nat} (hch : ch = 1 ∨ ch = 2) (h : s.Settled) :
    (decodeBody ch s).Meets State.Settled State.Settled := by
  have hs0 : s.release.clearFlags.InCommand := h.1.release.clearFlags
  rcases decodeBody_cases ch s with ⟨hslice, hframes, hb⟩ | hb <;> rw [hb]
  · obtain ⟨hlen, harg⟩ := State.argSliceOk_iff.1 hslice
    have hout := (State.argFramesOk_iff ch).1 hframes
    have hstream := hs0.stream (n := s.argN.toNat) hch (harg.trans hlen) (by rwa [Nat.mul_comm])
    obtain ⟨-, br, ch0, ch1, out, -, -, -, heq⟩ :=
      stream_cases s.release.clearFlags s.argOff.toNat s.argLen.toNat ch s.argN.toNat
    rw [heq] at hstream ⊢
    exact ⟨{ hstream with }, h.2.1, nofun⟩
  · exact ⟨nofun, hs0, h.2.1, nofun⟩

/-! ## Big-endian reads -/

theorem toNat_shiftLeft_lt {x : Word} {a : Nat} (hx : x.toNat < 2 ^ a) (k : Nat) : (x <<< k).toNat < 2 ^ (a + k) := by
  rw [BitVec.toNat_shiftLeft, Nat.shiftLeft_eq, pow_add]
  exact lt_of_le_of_lt (Nat.mod_le _ _) (Nat.mul_lt_mul_of_pos_right hx (Nat.two_pow_pos k))

theorem toNat_or_lt {x y : Word} {a : Nat} (hx : x.toNat < 2 ^ a) (hy : y.toNat < 2 ^ a) : (x ||| y).toNat < 2 ^ a := by
  rw [BitVec.toNat_or]
  exact Nat.or_lt_two_pow hx hy

/-- `n` bytes are a number below `2^(8n)`. -/
theorem memRead_lt (m : Memory 8) (a n : Nat) : (memRead m a n).toNat < 2 ^ (8 * n) := by
  induction n with
  | zero => simp [memRead]
  | succ n ih =>
    have hbyte : ((Memory.read m (a + n)).setWidth 32).toNat < 2 ^ (8 * n + 8) :=
      calc ((Memory.read m (a + n)).setWidth 32).toNat
          ≤ (Memory.read m (a + n)).toNat := by rw [BitVec.toNat_setWidth]; exact Nat.mod_le _ _
        _ < 2 ^ 8 := (Memory.read m (a + n)).isLt
        _ ≤ 2 ^ (8 * n + 8) := Nat.pow_le_pow_right (by omega) (by omega)
    exact toNat_or_lt (toNat_shiftLeft_lt ih 8) hbyte

/-! ## Chunk handlers -/

/-- A field extractor that keeps the widths and the capacity of the slice table stays in the walk. -/
theorem State.InWalk.of_fields {levels : List Level} (h : s.InWalk levels) (hf : SameButFields s t) (hmeta : t.MetaGood)
    (hcount : t.slices.length ≤ t.params.maxSlices) : t.InWalk levels := by
  obtain ⟨hc, hwalker, hstops, hpcm⟩ := h
  unfold SameButFields at hf
  rw [hf] at hmeta hcount ⊢
  exact ⟨{ hc with metaWidths := hmeta, sliceCount := hcount }, hwalker, hstops, hpcm⟩

theorem globStep_metaGood (pl : Nat) (len : Word) (h : s.MetaGood) : (globStep pl len s).MetaGood := by
  obtain ⟨hdec, hrate, hch, hbytes, -, -⟩ := id h
  unfold globStep
  split_ifs
  · exact h
  · refine ⟨hdec, hrate, hch, hbytes, ?_, ?_⟩
    · exact toNat_or_lt ((memRead_lt _ _ 1).trans (by decide)) (toNat_shiftLeft_lt (memRead_lt _ _ 1) 8)
    · exact toNat_or_lt ((memRead_lt _ _ 2).trans (by decide)) (toNat_shiftLeft_lt (memRead_lt _ _ 1) 16)

theorem headStep_metaGood (pl : Nat) (len : Word) (h : s.MetaGood) : (headStep pl len s).MetaGood := by
  obtain ⟨hdec, hrate, hch, -, htime, hbars⟩ := id h
  unfold headStep
  split_ifs
  · exact h
  · exact ⟨hdec, hrate, hch, memRead_lt _ _ 1, htime, hbars⟩

theorem sinfStep_metaGood (pl : Nat) (len : Word) (h : s.MetaGood) : (sinfStep pl len s).MetaGood := by
  obtain ⟨hdec, hrate, -, hbytes, htime, hbars⟩ := id h
  unfold sinfStep
  dsimp only
  split_ifs
  · exact h
  · exact ⟨hdec, hrate, memRead_lt _ _ 1, hbytes, htime, hbars⟩
  · exact ⟨hdec, memRead_lt _ _ 2, memRead_lt _ _ 1, hbytes, htime, hbars⟩

variable {levels : List Level}

theorem globStep_inWalk (pl : Nat) (len : Word) (h : s.InWalk levels) : (globStep pl len s).InWalk levels := by
  refine h.of_fields (globStep_frame pl len s) (globStep_metaGood pl len h.1.metaWidths) ?_
  unfold globStep
  split_ifs <;> exact h.1.sliceCount

theorem headStep_inWalk (pl : Nat) (len : Word) (h : s.InWalk levels) : (headStep pl len s).InWalk levels := by
  refine h.of_fields (headStep_frame pl len s) (headStep_metaGood pl len h.1.metaWidths) ?_
  unfold headStep
  split_ifs <;> exact h.1.sliceCount

theorem sinfStep_inWalk (pl : Nat) (len : Word) (h : s.InWalk levels) : (sinfStep pl len s).InWalk levels := by
  refine h.of_fields (sinfStep_frame pl len s) (sinfStep_metaGood pl len h.1.metaWidths) ?_
  unfold sinfStep
  split_ifs <;> exact h.1.sliceCount

theorem slceStep_inWalk (pl : Nat) (len : Word) (h : s.InWalk levels) : (slceStep pl len s).InWalk levels := by
  rcases slceStep_cases pl len s with heq | ⟨hroom, x, -, heq⟩ <;> rw [heq]
  · exact h
  · refine h.of_fields rfl h.1.metaWidths ?_
    simpa using hroom

/-! ## SDAT -/

theorem State.InWalk.setDecoded (h : s.InWalk levels) : s.setDecoded.InCommand := { h.1 with }

/-- The state from which the first SDAT runs its stream (R224). -/
theorem State.InWalk.setDecChannels (h : s.InWalk levels) (hfirst : s.status.decoded = false)
    (hch : s.channels.toNat = 1 ∨ s.channels.toNat = 2) :
    State.InCommand { s.setDecoded with decChannels := s.channels } := by
  obtain ⟨hc, -, -, hpcm⟩ := h
  obtain ⟨-, hwidths⟩ := hc.metaWidths
  have hzero : s.pcmFrames.toNat = 0 := by rw [hpcm hfirst]; rfl
  exact { hc with
    metaWidths := ⟨by show s.channels.toNat ≤ 2; omega, hwidths⟩
    pcmFits := by simp [hzero] }

theorem toNat_ofNat_le (n : Nat) : (BitVec.ofNat 32 n).toNat ≤ n := by
  rw [BitVec.toNat_ofNat]
  exact Nat.mod_le _ _

/-- The stream of the first SDAT and the count of its frames (R224). -/
theorem State.InWalk.sdatStream (h : s.InWalk levels) (hfirst : s.status.decoded = false)
    (hch : s.channels.toNat = 1 ∨ s.channels.toNat = 2) {pl len n : Nat} (hin : pl + len ≤ s.params.inSize)
    (hout : n * s.channels.toNat ≤ s.params.outSize) {r : Nat × State}
    (hr : r = stream { s.setDecoded with decChannels := s.channels } pl len s.channels.toNat n) :
    r.2.InCommand ∧ State.InWalk { r.2 with pcmFrames := BitVec.ofNat 32 r.1 } levels := by
  have hstream := (h.setDecChannels hfirst hch).stream hch hin hout
  obtain ⟨hcount, br, ch0, ch1, out, -, -, -, heq⟩ :=
    stream_cases { s.setDecoded with decChannels := s.channels } pl len s.channels.toNat n
  rw [← hr] at hstream hcount heq
  refine ⟨hstream, ?_⟩
  obtain ⟨-, hwalker, hstops, -⟩ := h
  have hfits : (BitVec.ofNat 32 r.1).toNat * s.channels.toNat ≤ s.params.outSize :=
    (Nat.mul_le_mul_right _ ((toNat_ofNat_le r.1).trans hcount)).trans hout
  rw [heq] at hstream ⊢
  exact ⟨{ hstream with pcmFits := hfits }, hwalker, hstops, nofun⟩

theorem sdatDecode_meets {pl : Nat} {len : Word} (h : s.InWalk levels) (hfirst : s.status.decoded = false)
    (hin : pl + len.toNat ≤ s.params.inSize) :
    (sdatDecode pl len s).Meets (fun t => t.InWalk levels) State.InCommand := by
  unfold sdatDecode
  dsimp only
  split_ifs with hch hmax hout hshort
  · exact ⟨nofun, h.setDecoded⟩
  all_goals
    have hch' : s.channels.toNat = 1 ∨ s.channels.toNat = 2 := by
      rw [State.setDecoded_channels] at hch
      bv_omega
  · exact ⟨nofun, h.setDecChannels hfirst hch'⟩
  · exact ⟨nofun, h.setDecChannels hfirst hch'⟩
  · exact ⟨nofun, (h.sdatStream hfirst hch' hin (not_lt.1 hout) rfl).1⟩
  · exact (h.sdatStream hfirst hch' hin (not_lt.1 hout) rfl).2

theorem sdatStep_meets {pl : Nat} {len : Word} (h : s.InWalk levels) (hin : pl + len.toNat ≤ s.params.inSize) :
    (sdatStep pl len s).Meets (fun t => t.InWalk levels) State.InCommand := by
  unfold sdatStep
  split_ifs with hdecoded
  · exact h
  · exact sdatDecode_meets h (by simpa using hdecoded) hin

/-! ## The walk -/

/-- The handler that the walk runs on the chunk at its cursor (R180), with fuel `f` for a nested walk. -/
def chunkBody (f pl : Nat) (tag len : Word) (s : State) : CmdResult :=
  if tag = tagCat then
    (if 4 ≤ len.toNat then walk f (s.pushLevel (pl + 4) (pl + len.toNat)) else .ok s)
  else if tag = tagGlob then .ok (globStep pl len s)
  else if tag = tagHead then .ok (headStep pl len s)
  else if tag = tagSinf then .ok (sinfStep pl len s)
  else if tag = tagSlce then .ok (slceStep pl len s)
  else if tag = tagSdat then sdatStep pl len s
  else .ok s

section
variable {l : Level} {rest : List Level} (f : Nat) (hw : s.walker = l :: rest)
include hw

theorem walk_of_levelEnds (h : s.headerAt l = .levelEnds) : walk (f + 1) s = .ok s.popLevel := by
  simp only [walk, hw, h]

theorem walk_of_truncated (h : s.headerAt l = .truncated) : walk (f + 1) s = .ok s.popLevel.setTrunc := by
  simp only [walk, hw, h]

theorem walk_of_chunk_raised {tag len : Word} (h : s.headerAt l = .chunk tag len) {e : ErrorKind}
    (hb : chunkBody f (l.pos + 8) tag len s = .raised e t) : walk (f + 1) s = .raised e t := by
  unfold chunkBody at hb
  simp only [walk, hw, h]
  rw [hb]

theorem walk_of_chunk_ok {tag len : Word} (h : s.headerAt l = .chunk tag len)
    (hb : chunkBody f (l.pos + 8) tag len s = .ok t) : walk (f + 1) s = walk f (t.advance len) := by
  unfold chunkBody at hb
  simp only [walk, hw, h]
  rw [hb]

end

theorem State.InWalk.pushLevel (h : s.InWalk levels) (start : Nat) {stop : Nat} (hstop : stop ≤ s.params.inSize) :
    (s.pushLevel start stop).InWalk ({ pos := start, stop := stop } :: levels) := by
  obtain ⟨hc, hwalker, hstops, hpcm⟩ := h
  refine ⟨{ hc with }, by rw [State.pushLevel_walker, hwalker], ?_, hpcm⟩
  exact List.forall_mem_cons.2 ⟨hstop, hstops⟩

theorem State.InWalk.popLevel {l : Level} {rest : List Level} (h : s.InWalk (l :: rest)) : s.popLevel.InWalk rest := by
  obtain ⟨hc, hwalker, hstops, hpcm⟩ := h
  refine ⟨{ hc with }, by rw [State.popLevel_walker, hwalker]; rfl, ?_, hpcm⟩
  exact (List.forall_mem_cons.1 hstops).2

theorem State.InWalk.setTrunc (h : s.InWalk levels) : s.setTrunc.InWalk levels := by
  obtain ⟨hc, hwalker, hstops, hpcm⟩ := h
  exact ⟨{ hc with }, hwalker, hstops, hpcm⟩

theorem State.InWalk.advance {l : Level} {rest : List Level} (h : s.InWalk (l :: rest)) (len : Word) :
    (s.advance len).InWalk ({ l with pos := l.pos + chunkSize len } :: rest) := by
  obtain ⟨hc, hwalker, hstops, hpcm⟩ := h
  rw [State.advance, hwalker]
  obtain ⟨hl, hrest⟩ := List.forall_mem_cons.1 hstops
  exact ⟨{ hc with }, rfl, List.forall_mem_cons.2 ⟨hl, hrest⟩, hpcm⟩

/-- A handler keeps the walk when a nested walk, run with the same fuel, does. -/
theorem chunkBody_meets {f pl : Nat} {tag len : Word} (h : s.InWalk levels) (hin : pl + len.toNat ≤ s.params.inSize)
    (hnested : 4 ≤ len.toNat →
      (walk f (s.pushLevel (pl + 4) (pl + len.toNat))).Meets (fun t => t.InWalk levels) State.InCommand) :
    (chunkBody f pl tag len s).Meets (fun t => t.InWalk levels) State.InCommand := by
  unfold chunkBody
  split_ifs with _ hroom
  · exact hnested hroom
  · exact h
  · exact globStep_inWalk pl len h
  · exact headStep_inWalk pl len h
  · exact sinfStep_inWalk pl len h
  · exact slceStep_inWalk pl len h
  · exact sdatStep_meets h hin
  · exact h

/-- The walk of a level keeps what PARSE keeps and, with fuel above the level's bytes (R190), leaves that level closed. -/
theorem walk_meets {f : Nat} {s : State} {l : Level} {rest : List Level} (h : s.InWalk (l :: rest))
    (hf : l.stop - l.pos < f) : (walk f s).Meets (fun t => t.InWalk rest) State.InCommand := by
  induction f generalizing s l rest with
  | zero => omega
  | succ f ih =>
    obtain ⟨hc, hwalker, hstops, hpcm⟩ := id h
    cases hh : s.headerAt l with
    | levelEnds =>
      rw [walk_of_levelEnds f hwalker hh]
      exact h.popLevel
    | truncated =>
      rw [walk_of_truncated f hwalker hh]
      exact h.popLevel.setTrunc
    | chunk tag len =>
      obtain ⟨hfits, -, -⟩ := headerAt_chunk hh
      have hstop : l.stop ≤ s.params.inSize := hstops l List.mem_cons_self
      have hbody : (chunkBody f (l.pos + 8) tag len s).Meets (fun t => t.InWalk (l :: rest)) State.InCommand :=
        chunkBody_meets h (hfits.trans hstop) fun hroom =>
          ih (h.pushLevel _ (hfits.trans hstop)) (by
            show l.pos + 8 + len.toNat - (l.pos + 8 + 4) < f
            omega)
      cases hb : chunkBody f (l.pos + 8) tag len s with
      | raised e t =>
        rw [walk_of_chunk_raised f hwalker hh hb]
        rwa [hb] at hbody
      | ok t =>
        rw [walk_of_chunk_ok f hwalker hh hb]
        rw [hb] at hbody
        refine ih (State.InWalk.advance hbody len) ?_
        show l.stop - (l.pos + chunkSize len) < f
        unfold chunkSize
        omega

/-! ## PARSE -/

theorem clampSlice_clamped (frames : Word) (x : Slice) : (clampSlice frames x).Clamped frames := by
  unfold clampSlice
  split_ifs with hruns hstarts
  · have hcut : x.off.toNat + (frames - x.off).toNat ≤ frames.toNat := by bv_omega
    exact (if_pos hstarts.le).mpr hcut
  · unfold Slice.Clamped
    split_ifs with hle
    · exact hle
    · rfl
  · exact (if_pos (by omega)).mpr (not_lt.1 hruns)

theorem finalSlices_clamped (frames : Word) (stored : List Slice) :
    ∀ x ∈ finalSlices frames stored, x.Clamped frames := by
  intro x hx
  obtain ⟨y, -, rfl⟩ := List.mem_map.1 hx
  exact clampSlice_clamped frames y

theorem finalSlices_length (frames : Word) (stored : List Slice) :
    (finalSlices frames stored).length = max 1 stored.length := by
  cases stored <;> simp [finalSlices, synthSlices]

/-- PARSE up to its walk ends by an error on a released state, or with the whole input open as one level (R221-R223). -/
theorem parseStart_meets (h : s.Settled) :
    (parseStart s).Meets (fun t => t.InWalk [{ pos := 0, stop := t.inLen.toNat }]) State.InCommand := by
  have hs0 : State.InCommand { s.release.clearFlags with result := 0 } := { h.1.release with }
  unfold parseStart
  dsimp only
  split_ifs with hbad
  · exact ⟨nofun, hs0⟩
  · exact ⟨nofun, hs0⟩
  · exact ⟨nofun, hs0⟩
  · rw [Bool.not_eq_true', Bool.not_eq_false] at hbad
    have hstop : s.inLen.toNat ≤ s.params.inSize := of_decide_eq_true hbad
    exact ⟨{ hs0 with metaWidths := by simp [State.MetaGood] }, rfl, List.forall_mem_singleton.2 hstop, fun _ => rfl⟩

theorem parseEnd_meets (h : s.InWalk []) : (parseEnd s).Meets State.Settled State.InCommand := by
  obtain ⟨hc, hwalker, -, -⟩ := h
  obtain ⟨-, -, hslices, -, -⟩ := hc.params
  unfold parseEnd
  split_ifs
  · exact ⟨nofun, hc⟩
  · refine ⟨{ hc with sliceCount := ?_ }, hwalker, finalSlices_clamped _ _⟩
    rw [finalSlices_length]
    exact max_le hslices hc.sliceCount

theorem parseBody_meets (h : s.Settled) : (parseBody s).Meets State.Settled State.InCommand := by
  have hstart := parseStart_meets h
  unfold parseBody
  split
  next e s' heq => rwa [heq] at hstart
  next s1 heq =>
    rw [heq] at hstart
    have hwalk := walk_meets (f := s1.inLen.toNat + 1) hstart (Nat.lt_succ_self _)
    split
    next e s' heq2 => rwa [heq2] at hwalk
    next s2 heq2 =>
      rw [heq2] at hwalk
      exact parseEnd_meets hwalk

/-! ## Every instruction and every step -/

theorem withPayload_not_next_of_good {len : Word} {handler : Nat → State} (h : s.Good) :
    withPayload len s handler ≠ .next t := by
  intro hnext
  obtain ⟨l, rest, hwalker, -⟩ := withPayload_next.1 hnext
  obtain ⟨-, -, hnil, -⟩ := h
  rw [hnil] at hwalker
  cases hwalker

/-- Every instruction keeps the invariant; a chunk, a unary bit or a predictor case answers no next state from a good one. -/
theorem exec_good {i : Instr} (h : s.Good) (hnext : exec i s = .next t) : t.Good := by
  obtain ⟨-, hwork, -⟩ := id h
  cases i with
  | parse => injection hnext with hnext; exact hnext ▸ endParse_good (parseBody_meets h.beginCommand)
  | destroy =>
    injection hnext with hnext
    subst hnext
    obtain ⟨hc, hwalker, -⟩ := h.beginCommand
    exact State.Settled.finish ⟨{ hc.release with }, hwalker, nofun⟩
  | decodeMono => injection hnext with hnext; exact hnext ▸ endCommand_good (decodeBody_meets (.inl rfl) h.beginCommand)
  | decodeStereo => injection hnext with hnext; exact hnext ▸ endCommand_good (decodeBody_meets (.inr rfl) h.beginCommand)
  | brInit => exact execBrInit_good h hnext
  | brReadBit => exact execBrReadBit_good h hnext
  | brReadBits n => exact execBrReadBits_good h hnext
  | chInit c => exact execChInit_good h hnext
  | chDecodeSample c => exact execChDecodeSample_good h hnext
  | cat | glob | head | sinf | slce | sdat => exact absurd hnext (withPayload_not_next_of_good h)
  | unknownTag tag len => injection hnext with hnext; exact hnext ▸ h
  | unaryZero =>
    obtain ⟨c, u, hunary, -⟩ := execUnaryZero_next hnext
    rw [hwork] at hunary
    cases hunary
  | unaryStop =>
    obtain ⟨c, u, hunary, -⟩ := execUnaryStop_next hnext
    rw [hwork] at hunary
    cases hunary
  | predK0 | predK1 | predK2 | predK3 | predK4 =>
    obtain ⟨c, d, hpredict, -⟩ := predictorStep_next hnext
    rw [hwork] at hpredict
    cases hpredict

theorem State.Good.writeIn (h : s.Good) {a : Nat} (ha : a < s.params.inSize) (b : Byte) :
    State.Good { s with inMem := Memory.write s.inMem a b } := by
  obtain ⟨hparams, hwork, hwalker, hstatus, hmeta, hslices, hpcm, ⟨⟨hwf, hin⟩, hout⟩, hrest⟩ := h
  refine ⟨hparams, hwork, hwalker, hstatus, hmeta, hslices, hpcm, ⟨⟨Memory.write_wf hwf a b, ?_⟩, hout⟩, hrest⟩
  intro c hc
  rcases Memory.mem_write hc with rfl | hc
  · exact ha
  · exact hin c hc

theorem State.Good.writeArgReg (h : s.Good) (off : Nat) (v : Word) : (s.writeArgReg off v).Good := by
  rw [State.writeArgReg_frame]
  exact h

theorem issueCommand_good {w : Word} (h : s.Good) (hnext : issueCommand w s = .next t) : t.Good := by
  have hcmd : State.Good { s with cmd := w } := h
  obtain ⟨-, -, -, hstatus, -⟩ := id h
  rcases issueCommand_cases hstatus.1 with ⟨i, -, heq⟩ | ⟨e, -, heq⟩ <;> rw [heq] at hnext
  · exact exec_good hcmd hnext
  · injection hnext with hnext
    exact hnext ▸ hcmd.beginCommand.raise nofun

theorem hostAccess_good {a : HostAccess} (h : s.Good) (hnext : hostAccess a s = .next t) : t.Good := by
  obtain ⟨-, -, -, hstatus, -⟩ := id h
  rcases hostAccess_cases hstatus.1 hnext with
    ⟨addr, b, -, haddr, rfl⟩ | ⟨w, -, hissue⟩ | ⟨off, v, -, -, rfl⟩ | ⟨off, -, rfl⟩ | ⟨i, -, -, rfl⟩
  · exact h.writeIn haddr b
  · exact issueCommand_good h hissue
  · exact h.writeArgReg off v
  · exact h
  · exact h

/-- Settles O53: a step from a good state is a host access, and every host access keeps the invariant. -/
theorem stepKeepsGood : Obligations.StepKeepsGood := by
  intro s t h hnext
  obtain ⟨-, hwork, -⟩ := id h
  cases hhost : s.host with
  | nil =>
    have hstay : step s = .next s := by simp only [step, hwork, hostStep, hhost]
    rw [hstay] at hnext
    injection hnext with hnext
    exact hnext ▸ h
  | cons a rest =>
    rw [step_hostAccess hwork hhost] at hnext
    exact hostAccess_good (s := { s with host := rest }) h hnext

end Sys2Proof.Machine
end

section
/-! PROOFS. 20_memory.md, R60 to R65: who writes IN, OUT, the RW registers and the parameters. -/

namespace Sys2Proof.Claims

open Sys2Proof.Machine

theorem SameInputs.refl (s : State) : SameInputs s s := ⟨rfl, rfl, rfl, rfl, rfl, rfl, rfl, rfl, rfl⟩

theorem SameInputs.trans {s t u : State} (hst : SameInputs s t) (htu : SameInputs t u) : SameInputs s u := by
  obtain ⟨hparams, hcmd, hlen, hoff, harg, hn, hin, hhost, hdata⟩ := hst
  unfold SameInputs
  rwa [hparams, hcmd, hlen, hoff, harg, hn, hin, hhost, hdata]

end Sys2Proof.Claims

namespace Sys2Proof.Machine

open Sys2Proof.Claims

variable {s t : State}

/-! ## The host's accesses to IN and OUT -/

theorem hostAccess_writeIn {a : Nat} (b : Byte) (hidle : s.status.state ≠ .busy) (ha : a < s.params.inSize) :
    hostAccess (.writeIn a b) s = .next { s with inMem := Memory.write s.inMem a b } := by
  simp only [hostAccess, not_le.2 ha, hidle, if_false]

theorem hostAccess_readOut {i : Nat} (hi : i < s.params.outSize) :
    hostAccess (.readOut i) s = .next { s with hostData := BitVec.ofInt 32 (Memory.read s.outMem i).toInt } := by
  simp only [hostAccess, not_le.2 hi, if_false, BitVec.signExtend]

/-- Settles O6: the step is the host's access, and a write of a canonical memory sets its own cell alone. -/
theorem hostAccessesInAndOut : Obligations.HostAccessesInAndOut := by
  refine ⟨?_, ?_, ?_, ?_⟩
  · intro s a b rest hwork hidle hhost ha hwf
    refine ⟨Memory.write s.inMem a b, ?_, Memory.read_write_same hwf a b, fun _ hne => Memory.read_write_other _ b hne⟩
    rw [step_hostAccess hwork hhost]
    exact hostAccess_writeIn (s := { s with host := rest }) b hidle ha
  · intro s i rest hwork hhost hi
    rw [step_hostAccess hwork hhost]
    exact hostAccess_readOut (s := { s with host := rest }) hi
  · intro s a b rest hwork hhost ha
    rw [step_hostAccess hwork hhost]
    exact if_pos ha
  · intro s i rest hwork hhost hi
    rw [step_hostAccess hwork hhost]
    exact if_pos hi

/-- What a host access that issues no command may set: the argument registers, IN and the value the host gets back. -/
def SameButHostSide (s t : State) : Prop :=
  t = { s with
    inLen := t.inLen, argOff := t.argOff, argLen := t.argLen, argN := t.argN, inMem := t.inMem, hostData := t.hostData }

theorem State.writeArgReg_sameButHostSide (s : State) (off : Nat) (v : Word) : SameButHostSide s (s.writeArgReg off v) := by
  rw [SameButHostSide, State.writeArgReg_inMem, State.writeArgReg_hostData]
  exact s.writeArgReg_frame off v

theorem hostAccess_frame {a : HostAccess} (ha : ∀ w, a ≠ .writeReg 0 w) (h : hostAccess a s = .next t) :
    SameButHostSide s t := by
  cases a with
  | writeIn addr b =>
    simp only [hostAccess] at h
    split_ifs at h
    injection h with h
    exact h ▸ rfl
  | writeReg off v =>
    have hoff : off ≠ 0 := fun h0 => ha v (h0 ▸ rfl)
    simp only [hostAccess, hoff, if_false] at h
    split_ifs at h
    injection h with h
    exact h ▸ s.writeArgReg_sameButHostSide off v
  | readReg off =>
    injection h with h
    exact h ▸ rfl
  | readOut i =>
    simp only [hostAccess] at h
    split_ifs at h
    injection h with h
    exact h ▸ rfl

/-! ## Who writes OUT (R65) -/

theorem exec_outMem {i : Instr} (hi : runsStream i = false) (h : exec i s = .next t) : t.outMem = s.outMem := by
  cases i with
  | parse | decodeMono | decodeStereo | cat | sdat => cases hi
  | destroy => injection h with h; exact h ▸ rfl
  | glob | head | sinf | slce => rw [exec_fieldChunk_frame rfl h]
  | unknownTag tag len => injection h with h; exact h ▸ rfl
  | brInit | brReadBit | brReadBits | chInit | chDecodeSample | unaryZero | unaryStop
  | predK0 | predK1 | predK2 | predK3 | predK4 => rw [exec_sampleInstr_frame rfl h]

/-- Settles O56: OUT is outside the frame of every instruction without a stream and of every host access but a command. -/
theorem outWrittenOnlyByStreams : Obligations.OutWrittenOnlyByStreams :=
  ⟨fun _ _ _ hi h => exec_outMem hi h, fun a s t ha h => by rw [hostAccess_frame ha h]⟩

/-! ## What the block never writes (R60, R46) -/

theorem SameButSample.sameInputs (h : SameButSample s t) : SameInputs s t := by
  rw [h]
  exact SameInputs.refl s

theorem SameButFields.sameInputs (h : SameButFields s t) : SameInputs s t := by
  rw [h]
  exact SameInputs.refl s

theorem SameButDecode.sameInputs (h : SameButDecode s t) : SameInputs s t := by
  rw [h]
  exact SameInputs.refl s

/-- The state in which a command's body, or a part of one, ended, with or without an error. -/
def CmdResult.state : CmdResult → State
  | .ok s => s
  | .raised _ s => s

theorem endCommand_sameInputs (r : CmdResult) : SameInputs r.state (endCommand r) := by
  cases r <;> exact SameInputs.refl _

theorem endParse_sameInputs (r : CmdResult) : SameInputs r.state (endParse r) := by
  cases r <;> exact SameInputs.refl _

theorem afterHandler_sameInputs (r : CmdResult) : SameInputs r.state (afterHandler r) := by
  cases r <;> exact SameInputs.refl _

theorem decodeBody_sameInputs (ch : Nat) (s : State) : SameInputs s (decodeBody ch s).state := by
  rcases decodeBody_cases ch s with ⟨-, -, hb⟩ | hb <;> rw [hb]
  · obtain ⟨-, br, ch0, ch1, out, -, -, -, heq⟩ :=
      stream_cases s.release.clearFlags s.argOff.toNat s.argLen.toNat ch s.argN.toNat
    rw [heq]
    exact SameInputs.refl s
  · exact SameInputs.refl s

theorem sdatStep_sameInputs (pl : Nat) (len : Word) (s : State) : SameInputs s (sdatStep pl len s).state := by
  unfold sdatStep
  split_ifs
  · exact SameInputs.refl s
  · rcases sdatDecode_cases pl len s with ⟨t, hd, hframe⟩ | ⟨e, t, hd, hframe, -⟩ <;> rw [hd]
    · exact hframe.sameInputs
    · exact hframe.sameInputs

theorem State.advance_sameInputs (s : State) (len : Word) : SameInputs s (s.advance len) := by
  unfold State.advance
  split <;> exact SameInputs.refl s

/-- A handler changes no input when a nested walk, run with the same fuel, changes none. -/
theorem chunkBody_sameInputs {f : Nat} (hnested : ∀ s, SameInputs s (walk f s).state) (pl : Nat) (tag len : Word)
    (s : State) : SameInputs s (chunkBody f pl tag len s).state := by
  unfold chunkBody
  split_ifs
  · exact hnested (s.pushLevel (pl + 4) (pl + len.toNat))
  · exact SameInputs.refl s
  · exact (globStep_frame pl len s).sameInputs
  · exact (headStep_frame pl len s).sameInputs
  · exact (sinfStep_frame pl len s).sameInputs
  · exact (slceStep_frame pl len s).sameInputs
  · exact sdatStep_sameInputs pl len s
  · exact SameInputs.refl s

theorem walk_sameInputs (f : Nat) (s : State) : SameInputs s (walk f s).state := by
  induction f generalizing s with
  | zero => exact SameInputs.refl s
  | succ f ih =>
    cases hw : s.walker with
    | nil =>
      simp only [walk, hw]
      exact SameInputs.refl s
    | cons l rest =>
      cases hh : s.headerAt l with
      | levelEnds =>
        rw [walk_of_levelEnds f hw hh]
        exact SameInputs.refl s
      | truncated =>
        rw [walk_of_truncated f hw hh]
        exact SameInputs.refl s
      | chunk tag len =>
        have hbody := chunkBody_sameInputs ih (l.pos + 8) tag len s
        cases hb : chunkBody f (l.pos + 8) tag len s with
        | raised e t =>
          rw [walk_of_chunk_raised f hw hh hb]
          rwa [hb] at hbody
        | ok t =>
          rw [walk_of_chunk_ok f hw hh hb]
          rw [hb] at hbody
          exact hbody.trans ((t.advance_sameInputs len).trans (ih _))

theorem catStep_sameInputs (pl : Nat) (len : Word) (s : State) : SameInputs s (catStep pl len s).state := by
  unfold catStep
  split_ifs
  · exact walk_sameInputs _ (s.pushLevel (pl + 4) (pl + len.toNat))
  · exact SameInputs.refl s

theorem parseStart_sameInputs (s : State) : SameInputs s (parseStart s).state := by
  unfold parseStart
  dsimp only
  split_ifs <;> exact SameInputs.refl s

theorem parseEnd_sameInputs (s : State) : SameInputs s (parseEnd s).state := by
  unfold parseEnd
  split_ifs <;> exact SameInputs.refl s

theorem parseBody_sameInputs (s : State) : SameInputs s (parseBody s).state := by
  have hstart := parseStart_sameInputs s
  unfold parseBody
  split
  next e s' heq => rwa [heq] at hstart
  next s1 heq =>
    rw [heq] at hstart
    have hwalk := hstart.trans (walk_sameInputs (s1.inLen.toNat + 1) s1)
    split
    next e s' heq2 => rwa [heq2] at hwalk
    next s2 heq2 =>
      rw [heq2] at hwalk
      exact hwalk.trans (parseEnd_sameInputs s2)

/-- A chunk whose handler may raise changes no input when the handler changes none. -/
theorem withPayload_sameInputs {len : Word} {handler : Nat → CmdResult}
    (hf : ∀ pl, SameInputs s (handler pl).state)
    (h : withPayload len s (fun pl => afterHandler (handler pl)) = .next t) : SameInputs s t := by
  obtain ⟨l, -, -, -, rfl⟩ := withPayload_next.1 h
  exact (hf _).trans (afterHandler_sameInputs _)

theorem exec_sameInputs {i : Instr} (h : exec i s = .next t) : SameInputs s t := by
  cases i with
  | parse =>
    injection h with h
    exact h ▸ (parseBody_sameInputs s.beginCommand).trans (endParse_sameInputs _)
  | destroy => injection h with h; exact h ▸ SameInputs.refl s
  | decodeMono =>
    injection h with h
    exact h ▸ (decodeBody_sameInputs 1 s.beginCommand).trans (endCommand_sameInputs _)
  | decodeStereo =>
    injection h with h
    exact h ▸ (decodeBody_sameInputs 2 s.beginCommand).trans (endCommand_sameInputs _)
  | cat len => exact withPayload_sameInputs (fun pl => catStep_sameInputs pl len s) h
  | sdat len => exact withPayload_sameInputs (fun pl => sdatStep_sameInputs pl len s) h
  | glob | head | sinf | slce => exact (exec_fieldChunk_frame rfl h).sameInputs
  | unknownTag tag len => injection h with h; exact h ▸ SameInputs.refl s
  | brInit | brReadBit | brReadBits | chInit | chDecodeSample | unaryZero | unaryStop
  | predK0 | predK1 | predK2 | predK3 | predK4 => exact (exec_sampleInstr_frame rfl h).sameInputs

/-! ## The parameters (R46) -/

theorem exec_params {i : Instr} (h : exec i s = .next t) : t.params = s.params := by
  obtain ⟨hparams, -⟩ := exec_sameInputs h
  exact hparams.symm

theorem issueCommand_params {w : Word} (h : issueCommand w s = .next t) : t.params = s.params := by
  by_cases hbusy : s.status.state = .busy
  · rw [issueCommand, if_pos hbusy] at h
    injection h with h
    rw [h]
  · rcases issueCommand_cases (w := w) hbusy with ⟨i, -, heq⟩ | ⟨e, -, heq⟩ <;> rw [heq] at h
    · exact exec_params (s := { s with cmd := w }) h
    · injection h with h
      exact h ▸ rfl

theorem hostAccess_params {a : HostAccess} (h : hostAccess a s = .next t) : t.params = s.params := by
  by_cases ha : ∃ w, a = .writeReg 0 w
  · obtain ⟨w, rfl⟩ := ha
    exact issueCommand_params h
  · rw [hostAccess_frame (not_exists.1 ha) h]

theorem hostStep_params (h : hostStep s = .next t) : t.params = s.params := by
  unfold hostStep at h
  split at h
  next => injection h with h; rw [h]
  next a rest _ => exact hostAccess_params (s := { s with host := rest }) h

theorem walkEnds_params (s : State) : (walkEnds s).params = s.params := by
  obtain ⟨hparams, -⟩ := (parseEnd_sameInputs s).trans (endParse_sameInputs _)
  exact hparams.symm

theorem afterChunk_params {len : Word} {o : Host.Outcome State Fault Refusal}
    (ho : ∀ u, o = .next u → u.params = s.params) (h : afterChunk len o = .next t) : t.params = s.params := by
  cases o with
  | next u =>
    obtain ⟨hadvance, -⟩ := u.advance_sameInputs len
    have hu := ho u rfl
    injection h with h
    split_ifs at h <;> rw [← h]
    · exact hadvance.symm.trans hu
    · exact hu
  | fault | refused => cases h

theorem walkStep_params (h : walkStep s = .next t) : t.params = s.params := by
  unfold walkStep at h
  split at h
  next => injection h with h; exact h ▸ walkEnds_params s
  next l rest _ =>
    split_ifs at h
    split at h
    next => injection h with h; exact h ▸ rfl
    next => injection h with h; exact h ▸ rfl
    next tag len _ => exact afterChunk_params (fun u hu => exec_params hu) h

theorem sampleFails_params (c : Chan) (s : State) : (sampleFails c s).params = s.params := by cases c <;> rfl

theorem unaryStep_params {c : Chan} {u : UnaryRegs} (h : unaryStep c u s = .next t) : t.params = s.params := by
  unfold unaryStep at h
  split_ifs at h
  · injection h with h; exact h ▸ sampleFails_params c s
  · exact exec_params (s := { s with br := (readBit s.inMem s.br).2 }) h

theorem rangeStep_params {c : Chan} {u : UnaryRegs} (h : rangeStep c u s = .next t) : t.params = s.params := by
  unfold rangeStep at h
  split_ifs at h
  split at h
  next br _ => injection h with h; exact h ▸ sampleFails_params c { s with br := br }
  next r br _ => injection h with h; exact h ▸ s.setChan_params c _

theorem predictStep_params {c : Chan} (h : predictStep c s = .next t) : t.params = s.params := by
  unfold predictStep at h
  split at h
  next i _ => exact exec_params h
  next => cases h

theorem emitStep_params (c : Chan) (s : State) : (emitStep c s).params = s.params := s.setChan_params c _

theorem step_params (h : step s = .next t) : t.params = s.params := by
  unfold step at h
  split at h
  next => exact hostStep_params h
  next => exact walkStep_params h
  next => exact unaryStep_params h
  next => exact rangeStep_params h
  next => exact predictStep_params h
  next c _ => injection h with h; exact h ▸ emitStep_params c s

/-- Settles O57: by the instruction, and by the part of a command that a step runs. -/
theorem blockNeverWritesInputs : Obligations.BlockNeverWritesInputs :=
  ⟨fun _ _ _ h => exec_sameInputs h, fun _ _ h => step_params h⟩

end Sys2Proof.Machine
end

section
/-! PROOFS. 30_encoding.md, R80 to R99: decoding and encoding are inverse, and a step runs the command word it decodes. -/

namespace Sys2Proof

open Sys2Proof.Machine

/-! ## Decoding a code, by its format -/

/-- The three fields of an encoded command word (R80): `OPC`, `OPD` and an `RSV` of 0. -/
theorem commandCode_fields (opc opd : Byte) :
    ((commandCode opc opd).bits.extractLsb' 0 32).extractLsb' 0 8 = opc ∧
      ((commandCode opc opd).bits.extractLsb' 0 32).extractLsb' 8 8 = opd ∧
        ((commandCode opc opd).bits.extractLsb' 0 32).extractLsb' 16 16 = 0 := by
  have hcode : ((commandCode opc opd).bits.extractLsb' 0 32).toNat = opd.toNat * 2 ^ 8 + opc.toNat := by
    simp only [commandCode, BitVec.extractLsb'_toNat, BitVec.toNat_setWidth, toNat_append_eq_add]
    omega
  refine ⟨?_, ?_, ?_⟩ <;> apply BitVec.eq_of_toNat_eq <;> rw [BitVec.extractLsb'_toNat, hcode, Nat.shiftRight_eq_div_pow]
  · omega
  · omega
  · show _ = 0
    omega

theorem decode_commandCode (opc opd : Byte) : decode (commandCode opc opd) = decodeOpcode opc opd := by
  obtain ⟨hopc, hopd, hrsv⟩ := commandCode_fields opc opd
  have hfits := Laws.EncodesInRange.command_in_range opc opd
  calc decode (commandCode opc opd)
      = decodeCommand ((commandCode opc opd).bits.extractLsb' 0 32) := if_neg (not_le.2 hfits)
    _ = decodeOpcode opc opd := by rw [decodeCommand, if_pos hrsv, hopc, hopd]

theorem decode_chunkCode (tag len : Word) : decode (chunkCode tag len) = .ok (decodeChunk tag len) := by
  have hfits := Laws.EncodesInRange.chunk_in_range tag len
  have htag : (tag ++ len).extractLsb' 32 32 = tag := BitVec.extractLsb'_append_eq_left
  have hlen : (tag ++ len).extractLsb' 0 32 = len := BitVec.extractLsb'_append_eq_right
  calc decode (chunkCode tag len)
      = .ok (decodeChunk ((tag ++ len).extractLsb' 32 32) ((tag ++ len).extractLsb' 0 32)) := if_neg (not_le.2 hfits)
    _ = .ok (decodeChunk tag len) := by rw [htag, hlen]

/-- R87: a tag that is none of the recognized ones is decoded as an unknown chunk. -/
theorem decodeChunk_unknown {tag : Word} (htag : tag ∉ knownTags) (len : Word) :
    decodeChunk tag len = .unknownTag tag len := by
  rcases decodeChunk_cases tag len with
    ⟨rfl, -⟩ | ⟨rfl, -⟩ | ⟨rfl, -⟩ | ⟨rfl, -⟩ | ⟨rfl, -⟩ | ⟨rfl, -⟩ | ⟨-, h⟩
  case inr.inr.inr.inr.inr.inr => exact h
  all_goals exact absurd (by decide) htag

theorem wellFormed_unknownTag_iff (tag len : Word) : (Instr.unknownTag tag len).wellFormed = true ↔ tag ∉ knownTags := by
  simp [Instr.wellFormed]

/-- Settles O8: by the instruction; a command by its opcode, a chunk by its tag, a bit or an index by evaluation. -/
theorem decodeInvertsEncode : Obligations.DecodeInvertsEncode := by
  intro i hi
  cases i with
  | parse | destroy | decodeMono | decodeStereo | brInit | brReadBit => exact decode_commandCode _ 0
  | brReadBits n | chInit n | chDecodeSample n => exact decode_commandCode _ n
  | cat len | glob len | head len | sinf len | slce len | sdat len => exact decode_chunkCode _ len
  | unknownTag tag len =>
    have htag := (wellFormed_unknownTag_iff tag len).1 hi
    exact (decode_chunkCode tag len).trans (by rw [decodeChunk_unknown htag])
  | unaryZero | unaryStop | predK0 | predK1 | predK2 | predK3 | predK4 => rfl

/-! ## The encoding of a decoded instruction, by its format -/

theorem noOperand_eq_ok_iff {opd : Byte} {i j : Instr} : noOperand opd i = .ok j ↔ opd = 0 ∧ i = j := by
  unfold noOperand
  split_ifs with h
  · simp [h]
  · exact iff_of_false nofun fun hok => h hok.1

/-- R83: a command without an operand decodes from an `OPD` of 0 alone, the one it is encoded with. -/
theorem encode_of_noOperand {opc opd : Byte} {i j : Instr} (h : noOperand opd j = .ok i)
    (hj : encode j = commandCode opc 0) (hwf : j.wellFormed = true) :
    encode i = commandCode opc opd ∧ i.wellFormed = true := by
  obtain ⟨rfl, rfl⟩ := noOperand_eq_ok_iff.1 h
  exact ⟨hj, hwf⟩

/-- An opcode byte that decodes is the one its instruction is encoded with (R81), `OPD` an operand or 0 (R83). -/
theorem encode_of_decodeOpcode {opc opd : Byte} {i : Instr} (h : decodeOpcode opc opd = .ok i) :
    encode i = commandCode opc opd ∧ i.wellFormed = true := by
  unfold decodeOpcode at h
  split_ifs at h <;> subst opc
  · exact encode_of_noOperand h rfl rfl
  · exact encode_of_noOperand h rfl rfl
  · exact encode_of_noOperand h rfl rfl
  · exact encode_of_noOperand h rfl rfl
  · exact encode_of_noOperand h rfl rfl
  · exact encode_of_noOperand h rfl rfl
  all_goals injection h with h; exact h ▸ ⟨rfl, rfl⟩

/-- Bits that fit in `n` are those bits, widened again. -/
theorem setWidth_extractLsb'_of_lt {bits : BitVec 64} {n : Nat} (h : bits.toNat < 2 ^ n) :
    (bits.extractLsb' 0 n).setWidth 64 = bits := by
  apply BitVec.eq_of_toNat_eq
  rw [BitVec.toNat_setWidth, BitVec.extractLsb'_toNat, Nat.shiftRight_zero, Nat.mod_eq_of_lt h, Nat.mod_eq_of_lt bits.isLt]

/-- A word with `RSV = 0` is put together again from `OPC` and `OPD`. -/
theorem commandCode_of_reserved_zero {w : Word} (hrsv : w.extractLsb' 16 16 = 0) :
    commandCode (w.extractLsb' 0 8) (w.extractLsb' 8 8) = ⟨.command, w.setWidth 64⟩ := by
  have hhigh : w.toNat / 2 ^ 16 % 2 ^ 16 = 0 := by
    simpa [BitVec.extractLsb'_toNat, Nat.shiftRight_eq_div_pow] using congrArg BitVec.toNat hrsv
  have hbits : (w.extractLsb' 8 8 ++ w.extractLsb' 0 8).setWidth 64 = w.setWidth 64 := by
    apply BitVec.eq_of_toNat_eq
    simp only [BitVec.toNat_setWidth, toNat_append_eq_add, BitVec.extractLsb'_toNat, Nat.shiftRight_eq_div_pow]
    omega
  rw [commandCode, hbits]

theorem encode_of_decodeCommand {w : Word} {i : Instr} (h : decodeCommand w = .ok i) :
    encode i = ⟨.command, w.setWidth 64⟩ ∧ i.wellFormed = true := by
  unfold decodeCommand at h
  split_ifs at h with hrsv
  rw [← commandCode_of_reserved_zero hrsv]
  exact encode_of_decodeOpcode h

theorem encode_decodeChunk (tag len : Word) :
    encode (decodeChunk tag len) = chunkCode tag len ∧ (decodeChunk tag len).wellFormed = true := by
  rcases decodeChunk_cases tag len with
    ⟨rfl, h⟩ | ⟨rfl, h⟩ | ⟨rfl, h⟩ | ⟨rfl, h⟩ | ⟨rfl, h⟩ | ⟨rfl, h⟩ | ⟨htag, h⟩ <;> rw [h]
  case inr.inr.inr.inr.inr.inr => exact ⟨rfl, (wellFormed_unknownTag_iff tag len).2 htag⟩
  all_goals exact ⟨rfl, rfl⟩

theorem encode_decodeUnaryBit (b : Bool) :
    encode (decodeUnaryBit b) = ⟨.unaryBit, (BitVec.ofBool b).setWidth 64⟩ ∧ (decodeUnaryBit b).wellFormed = true := by
  cases b <;> exact ⟨rfl, rfl⟩

theorem encode_of_decodePredIndex {k : BitVec 3} {i : Instr} (h : decodePredIndex k = .ok i) :
    encode i = ⟨.predIndex, k.setWidth 64⟩ ∧ i.wellFormed = true := by
  unfold decodePredIndex at h
  split_ifs at h <;> subst k <;> injection h with h <;> exact h ▸ ⟨rfl, rfl⟩

/-- Settles O9: by the format of the code; its bits fit the format's width, so the decoded fields are all of them. -/
theorem encodeInvertsDecode : Obligations.EncodeInvertsDecode := by
  rintro ⟨format, bits⟩ i h
  unfold decode at h
  split_ifs at h with hwide
  have hfits : bits.toNat < 2 ^ format.width := not_le.1 hwide
  cases format with
  | command =>
    dsimp only at h
    have hbits : (bits.extractLsb' 0 32).setWidth 64 = bits := setWidth_extractLsb'_of_lt hfits
    have hi := encode_of_decodeCommand h
    rwa [hbits] at hi
  | chunk =>
    injection h with h
    have hbits : bits.extractLsb' 32 32 ++ bits.extractLsb' 0 32 = bits := by
      apply BitVec.eq_of_toNat_eq
      simp only [toNat_append_eq_add, BitVec.extractLsb'_toNat, Nat.shiftRight_eq_div_pow]
      omega
    have hi := encode_decodeChunk (bits.extractLsb' 32 32) (bits.extractLsb' 0 32)
    rwa [chunkCode, hbits, h] at hi
  | unaryBit =>
    injection h with h
    have hbits : (BitVec.ofBool (bits.getLsbD 0)).setWidth 64 = bits := by
      have hcases : bits = 0#64 ∨ bits = 1#64 := by
        have hlt : bits.toNat < 2 := hfits
        bv_omega
      rcases hcases with rfl | rfl <;> rfl
    have hi := encode_decodeUnaryBit (bits.getLsbD 0)
    rwa [hbits, h] at hi
  | predIndex =>
    dsimp only at h
    have hbits : (bits.extractLsb' 0 3).setWidth 64 = bits := setWidth_extractLsb'_of_lt hfits
    have hi := encode_of_decodePredIndex h
    rwa [hbits] at hi

/-! ## Words and headers of the tables -/

/-- Settles O7: each word and header evaluated by the decoder. -/
theorem commandWordsDecode : Obligations.CommandWordsDecode :=
  ⟨rfl, rfl, rfl, rfl, rfl, rfl, rfl, rfl, rfl, rfl, rfl⟩

end Sys2Proof

namespace Sys2Proof.Machine

/-- R80: a word that decodes, written to `CMD` between commands, runs its instruction. -/
theorem issueCommand_of_decode {s : State} {w : Word} {i : Instr} (hidle : s.status.state ≠ .busy)
    (hdec : decodeCommand w = .ok i) : issueCommand w s = exec i { s with cmd := w } := by
  simp only [issueCommand, hidle, if_false, hdec]

/-- Settles O11: the step is the host's access, a write of `CMD`. -/
theorem stepRunsCommandWord : Obligations.StepRunsCommandWord := by
  intro s w i rest hwork hidle hhost hdec
  calc step s = hostAccess (.writeReg 0 w) { s with host := rest } := step_hostAccess hwork hhost
    _ = issueCommand w { s with host := rest } := rfl
    _ = exec i { s with host := rest, cmd := w } := issueCommand_of_decode (s := { s with host := rest }) hidle hdec

end Sys2Proof.Machine
end

section
/-! PROOFS. 30_encoding.md, R102: LOAD IN as the host accesses it stands for, one step each. -/

namespace Sys2Proof.Machine

variable {s : State}

/-- The host accesses that write these bytes to IN from offset `a`. -/
def writesFrom (a : Nat) : List Byte → List HostAccess
  | [] => []
  | b :: rest => .writeIn a b :: writesFrom (a + 1) rest

/-- IN after those accesses. -/
def storeBytes (m : Memory 8) (a : Nat) : List Byte → Memory 8
  | [] => m
  | b :: rest => storeBytes (Memory.write m a b) (a + 1) rest

theorem mapIdx_writeIn (a : Nat) (bytes : List Byte) :
    (bytes.mapIdx fun i b => HostAccess.writeIn (a + i) b) = writesFrom a bytes := by
  induction bytes generalizing a with
  | nil => rfl
  | cons b rest ih =>
    rw [List.mapIdx_cons, writesFrom, ← ih (a + 1)]
    simp only [Nat.add_assoc, Nat.add_comm 1, Nat.add_zero]

theorem loadIn_eq (bytes : List Byte) :
    loadIn bytes = writesFrom 0 bytes ++ [.writeReg 0x008 (BitVec.ofNat 32 bytes.length)] := by
  rw [loadIn, ← mapIdx_writeIn]
  simp only [Nat.zero_add]

/-- A read after the bytes are stored: the byte stored at the offset, or what the memory held. -/
theorem read_storeBytes {m : Memory 8} (hm : Memory.wf m) (a : Nat) (bytes : List Byte) (i : Nat) :
    Memory.read (storeBytes m a bytes) i =
      if a ≤ i then (bytes[i - a]?).getD (Memory.read m i) else Memory.read m i := by
  induction bytes generalizing m a with
  | nil => simp [storeBytes]
  | cons b rest ih =>
    rw [storeBytes, ih (Memory.write_wf hm a b)]
    rcases lt_trichotomy i a with hlt | rfl | hgt
    · rw [if_neg (by omega), if_neg (by omega), Memory.read_write_other m b (by omega)]
    · rw [if_neg (by omega), if_pos le_rfl, Memory.read_write_same hm, Nat.sub_self]
      rfl
    · rw [if_pos (by omega), if_pos hgt.le, Memory.read_write_other m b (by omega),
        ← Nat.sub_add_cancel (Nat.sub_pos_of_lt hgt), List.getElem?_cons_succ, Nat.sub_sub]

/-- A run of one step more begins with that step. -/
theorem run_succ {t : State} (n : Nat) (h : step s = .next t) :
    Host.Core.run core (n + 1) s = Host.Core.run core n t := by
  have hcore : core.step s = .next t := h
  simp only [Host.Core.run, hcore]

/-- The writes of a byte string run as one step each, and leave IN with the bytes stored. -/
theorem run_writesFrom {a n : Nat} {bytes : List Byte} {rest : List HostAccess} (hwork : s.work = .none)
    (hidle : s.status.state ≠ .busy) (hhost : s.host = writesFrom a bytes ++ rest)
    (hin : a + bytes.length ≤ s.params.inSize) :
    Host.Core.run core (bytes.length + n) s =
      Host.Core.run core n { s with host := rest, inMem := storeBytes s.inMem a bytes } := by
  induction bytes generalizing s a with
  | nil => rw [List.length_nil, Nat.zero_add, storeBytes, ← show s.host = rest from hhost]
  | cons b bytes ih =>
    rw [List.length_cons] at hin
    have ha : a < s.params.inSize := by omega
    have hroom : a + 1 + bytes.length ≤ s.params.inSize := by omega
    have hstep : step s =
        .next { s with host := writesFrom (a + 1) bytes ++ rest, inMem := Memory.write s.inMem a b } := by
      rw [step_hostAccess hwork hhost]
      exact hostAccess_writeIn (s := { s with host := writesFrom (a + 1) bytes ++ rest }) b hidle ha
    rw [List.length_cons, Nat.succ_add, run_succ _ hstep]
    exact ih hwork hidle rfl hroom

/-- Settles O5: by induction on the bytes for the writes of IN, then one step for the write of `IN_LEN`. -/
theorem loadInStoresBytes : Obligations.LoadInStoresBytes := by
  intro s bytes rest hwork hidle hwf hhost hsize
  refine ⟨storeBytes s.inMem 0 bytes, ?_, fun a => ?_⟩
  · rw [loadIn_eq, List.append_assoc] at hhost
    rw [run_writesFrom hwork hidle hhost (by omega)]
    refine run_succ 0 ((step_hostAccess (rest := rest) ?_ rfl).trans ?_)
    · exact hwork
    · exact hostAccess_writeReg (by decide) (.inl hidle)
  · rw [read_storeBytes hwf, if_pos (Nat.zero_le a), Nat.sub_zero]

end Sys2Proof.Machine
end

section
/-! PROOFS. 30_encoding.md, R97 and R98: the truncated binary remainder and the zig-zag map. -/

namespace Sys2Proof.Claims

open Sys2Proof.Machine

/-! ## Bits as a number (R116) -/

theorem bitsValue_lt (m : Memory 8) (br : BitReader) (q n : Nat) : bitsValue m br q n < 2 ^ n := by
  induction n with
  | zero => exact Nat.one_pos
  | succ n ih =>
    have hbit := Bool.toNat_lt (bitAt m br (q + n))
    rw [bitsValue, pow_succ]
    omega

/-- A bit appended below a word (R112). -/
theorem shiftLeft_or_ofBool (v : Nat) (b : Bool) :
    (BitVec.ofNat 32 v <<< 1) ||| (BitVec.ofBool b).setWidth 32 = BitVec.ofNat 32 (2 * v + b.toNat) := by
  have hdisjoint : (BitVec.ofNat 32 v <<< 1) &&& (BitVec.ofBool b).setWidth 32 = 0#32 := by
    apply BitVec.eq_of_toNat_eq
    cases b <;> simp [Nat.shiftLeft_eq]
  rw [← BitVec.add_eq_or_of_and_eq_zero _ _ hdisjoint]
  apply BitVec.eq_of_toNat_eq
  cases b <;> simp [Nat.shiftLeft_eq] <;> omega

theorem readBits_fst (m : Memory 8) (br : BitReader) (n : Nat) :
    (readBits m br n).1 = BitVec.ofNat 32 (bitsValue m br br.pos n) := by
  induction n with
  | zero => rfl
  | succ n ih =>
    have hbit : currentBit m { br with pos := br.pos + n } = bitAt m br (br.pos + n) := rfl
    simp only [readBits, readBit_fst, readBits_snd, ih, hbit, shiftLeft_or_ofBool, bitsValue]

/-! ## The truncated binary code in plain arithmetic (R97) -/

theorem remOf_short {co ext : Nat} (h : ext < co) (x : Nat) : remOf co ext x = ext := if_pos h

theorem remOf_long {co ext : Nat} (h : co ≤ ext) (x : Nat) : remOf co ext x = co + (ext - co) * 2 + x :=
  if_neg (not_lt.2 h)

/-- The `co` smallest remainders are those that took no bit more. -/
theorem remOf_lt_co_iff (co ext x : Nat) : remOf co ext x < co ↔ ext < co := by
  unfold remOf
  split_ifs <;> omega

/-- With `2^(nb+1) = cs + co` codes of `nb + 1` bits, the remainder is below `cs`. -/
theorem remOf_lt {cs co nb ext x : Nat} (hco : co ≤ cs) (hpow : cs + co = 2 ^ (nb + 1)) (hext : ext < 2 ^ nb) (hx : x < 2) :
    remOf co ext x < cs := by
  rw [pow_succ] at hpow
  unfold remOf
  split_ifs <;> omega

/-- Every value below `cs` has a code: itself when short, else the value plus `co`, halved, with the bit left over. -/
theorem exists_remOf_eq {cs co nb v : Nat} (hpow : cs + co = 2 ^ (nb + 1)) (hv : v < cs) :
    ∃ ext < 2 ^ nb, ∃ x < 2, remOf co ext x = v := by
  rw [pow_succ] at hpow
  by_cases hshort : v < co
  · exact ⟨v, by omega, 0, by omega, remOf_short hshort 0⟩
  · exact ⟨(v + co) / 2, by omega, (v + co) % 2, by omega, by rw [remOf_long (by omega)]; omega⟩

theorem remOf_injective {co ext ext' x x' : Nat} (hx : x < 2) (hx' : x' < 2) (h : remOf co ext x = remOf co ext' x') :
    ext = ext' ∧ (co ≤ ext → x = x') := by
  unfold remOf at h
  split_ifs at h <;> omega

/-! ## The remainder as it is read (R130) -/

/-- The word of a remainder with one more bit, as a number, when it does not wrap. -/
theorem toNat_longRemainder {co ext : Word} {x : Bool} (hle : co.toNat ≤ ext.toNat)
    (hlt : co.toNat + (ext.toNat - co.toNat) * 2 + x.toNat < 2 ^ 32) :
    (co + (ext - co) * 2 + (BitVec.ofBool x).setWidth 32).toNat = co.toNat + (ext.toNat - co.toNat) * 2 + x.toNat := by
  have hsub : (ext - co).toNat = ext.toNat - co.toNat := BitVec.toNat_sub_of_le (BitVec.le_def.2 hle)
  have htwo : (2 : Word).toNat = 2 := rfl
  have hbit : ((BitVec.ofBool x).setWidth 32).toNat = x.toNat := by cases x <;> rfl
  rw [BitVec.toNat_add, BitVec.toNat_add, BitVec.toNat_mul, hsub, htwo, hbit]
  omega

section
variable {cs r : Word} {nb : Nat}

/-- The value of a remainder by R97's arithmetic, and the bits it takes by `ext`. -/
theorem readRemainder_eq (hlt : cs.toNat < r.toNat) (hpow : r.toNat = 2 ^ (nb + 1))
    (m : Memory 8) (br : BitReader) :
    (readRemainder m cs r nb br).1.toNat =
        remOf (r.toNat - cs.toNat) (bitsValue m br br.pos nb) (bitAt m br (br.pos + nb)).toNat ∧
      (readRemainder m cs r nb br).2 =
        readOn br (if bitsValue m br br.pos nb < r.toNat - cs.toNat then nb else nb + 1) := by
  have hext := bitsValue_lt m br br.pos nb
  have hbit : currentBit m { br with pos := br.pos + nb } = bitAt m br (br.pos + nb) := rfl
  have hx := Bool.toNat_lt (bitAt m br (br.pos + nb))
  have hco : (r - cs).toNat = r.toNat - cs.toNat := BitVec.toNat_sub_of_le (BitVec.le_def.2 hlt.le)
  have hr := r.isLt
  rw [pow_succ] at hpow
  have hextNat : (BitVec.ofNat 32 (bitsValue m br br.pos nb)).toNat = bitsValue m br br.pos nb := by
    rw [BitVec.toNat_ofNat]
    exact Nat.mod_eq_of_lt (by omega)
  simp only [readRemainder, Int.toNat_natCast, readBits_fst, readBits_snd, readBit_fst, readBit_snd, hbit, hextNat, hco]
  split_ifs with hshort
  · exact ⟨hextNat.trans (remOf_short hshort _).symm, rfl⟩
  · refine ⟨?_, rfl⟩
    rw [remOf_long (not_lt.1 hshort), toNat_longRemainder, hextNat, hco]
    · rw [hextNat, hco]
      omega
    · rw [hextNat, hco]
      omega

/-- The `co` smallest remainders take `nb` bits and the others a bit more. -/
theorem readRemainder_bits (hlt : cs.toNat < r.toNat) (hpow : r.toNat = 2 ^ (nb + 1))
    (m : Memory 8) (br : BitReader) :
    (readRemainder m cs r nb br).2 =
      readOn br (if (readRemainder m cs r nb br).1.toNat < r.toNat - cs.toNat then nb else nb + 1) := by
  obtain ⟨hval, hbr⟩ := readRemainder_eq hlt hpow m br
  rw [hbr, hval]
  simp only [remOf_lt_co_iff]

end

/-- Settles O24: what is read is the arithmetic code, whose range, values and uniqueness are plain arithmetic. -/
theorem remainderIsTruncatedBinary : Obligations.RemainderIsTruncatedBinary := by
  intro cs r nb hcs hlt hle hpow co
  have hsum : cs.toNat + co = 2 ^ (nb + 1) := by omega
  have hshort : co ≤ cs.toNat := by omega
  refine ⟨fun m br => ?_, fun v hv => exists_remOf_eq hsum hv, fun m m' br br' heq => ?_⟩
  · obtain ⟨hval, -⟩ := readRemainder_eq hlt hpow m br
    have hrange := remOf_lt hshort hsum (bitsValue_lt m br br.pos nb) (Bool.toNat_lt (bitAt m br (br.pos + nb)))
    exact ⟨hval, hval ▸ hrange, readRemainder_bits hlt hpow m br⟩
  · have hbr := readRemainder_bits hlt hpow m br
    have hbr' := readRemainder_bits hlt hpow m' br'
    rw [← heq] at hbr'
    refine ⟨_, hbr, hbr', ?_⟩
    obtain ⟨hval, -⟩ := readRemainder_eq hlt hpow m br
    obtain ⟨hval', -⟩ := readRemainder_eq hlt hpow m' br'
    rw [← heq] at hval'
    obtain ⟨hext, hlast⟩ := remOf_injective (Bool.toNat_lt _) (Bool.toNat_lt _) (hval.symm.trans hval')
    split_ifs with hlong
    · exact hext
    · rw [hval, remOf_lt_co_iff] at hlong
      rw [bitsValue, bitsValue, hext, hlast (not_lt.1 hlong)]

/-! ## The zig-zag map (R98) -/

theorem and_one_eq (val : Word) : val &&& 1 = BitVec.ofNat 32 (val.toNat % 2) := by
  apply BitVec.eq_of_toNat_eq
  rw [BitVec.toNat_and, BitVec.toNat_ofNat]
  exact (Nat.and_one_is_mod _).trans (by omega)

theorem zigzag_of_even {val : Word} (h : val.toNat % 2 = 0) : zigzag val = val := by
  rw [zigzag, and_one_eq, h]
  simp

/-- An odd value is complemented, and the complement is minus the successor. -/
theorem zigzag_of_odd {val : Word} (h : val.toNat % 2 = 1) : zigzag val = -(val + 1) := by
  rw [zigzag, and_one_eq, h]
  calc val ^^^ -BitVec.ofNat 32 1 = ~~~val := BitVec.xor_allOnes
    _ = -(val + 1) := by bv_omega

/-- Settles O25: by the parity of the value. -/
theorem zigzagAlternates : Obligations.ZigzagAlternates :=
  fun val => ⟨rfl, zigzag_of_even, zigzag_of_odd, even_iff.1 (zigzag_even val)⟩

end Sys2Proof.Claims
end

section
/-! PROOFS. 30_encoding.md R80 and 60_exceptions.md R254: how every command ends. -/

namespace Sys2Proof.Machine

open Sys2Proof.Claims

variable {s t : State}

/-! ## One induction over PARSE's walk -/

/-- What a predicate must survive to survive PARSE's walk: the levels, the truncation flag, the field extractors and the SDAT. -/
structure WalkKeeps (P : State → Prop) : Prop where
  push : ∀ s a b, P s → P (s.pushLevel a b)
  pop : ∀ s, P s → P s.popLevel
  trunc : ∀ s, P s → P s.setTrunc
  advance : ∀ s len, P s → P (s.advance len)
  fields : ∀ s t, SameButFields s t → P s → P t
  decode : ∀ s t, SameButDecode s t → P s → P t

section
variable {P : State → Prop} (hP : WalkKeeps P)
include hP

theorem WalkKeeps.sdatStep (pl : Nat) (len : Word) (h : P s) : (sdatStep pl len s).Meets P P := by
  unfold Machine.sdatStep
  split_ifs
  · exact h
  · rcases sdatDecode_cases pl len s with ⟨t, hd, hframe⟩ | ⟨e, t, hd, hframe, he⟩ <;> rw [hd]
    · exact hP.decode s t hframe h
    · exact ⟨by rcases he with rfl | rfl | rfl <;> nofun, hP.decode s t hframe h⟩

theorem WalkKeeps.chunkBody {f : Nat} (hnested : ∀ s, P s → (walk f s).Meets P P) (pl : Nat) (tag len : Word) (h : P s) :
    (chunkBody f pl tag len s).Meets P P := by
  unfold Machine.chunkBody
  split_ifs
  · exact hnested _ (hP.push s _ _ h)
  · exact h
  · exact hP.fields _ _ (globStep_frame pl len s) h
  · exact hP.fields _ _ (headStep_frame pl len s) h
  · exact hP.fields _ _ (sinfStep_frame pl len s) h
  · exact hP.fields _ _ (slceStep_frame pl len s) h
  · exact hP.sdatStep pl len h
  · exact h

/-- A predicate that the walk's parts keep holds where the walk ends, whether it returns or raises. -/
theorem WalkKeeps.walk (f : Nat) (h : P s) : (walk f s).Meets P P := by
  induction f generalizing s with
  | zero => exact h
  | succ f ih =>
    cases hw : s.walker with
    | nil =>
      simp only [Machine.walk, hw]
      exact h
    | cons l rest =>
      cases hh : s.headerAt l with
      | levelEnds =>
        rw [walk_of_levelEnds f hw hh]
        exact hP.pop s h
      | truncated =>
        rw [walk_of_truncated f hw hh]
        exact hP.trunc _ (hP.pop s h)
      | chunk tag len =>
        have hbody := hP.chunkBody (fun _ => ih) (l.pos + 8) tag len h
        cases hb : Machine.chunkBody f (l.pos + 8) tag len s with
        | raised e t =>
          rw [walk_of_chunk_raised f hw hh hb]
          rwa [hb] at hbody
        | ok t =>
          rw [walk_of_chunk_ok f hw hh hb]
          rw [hb] at hbody
          exact ih (hP.advance t len hbody)

end

/-! ## The ends of a command -/

/-- A command has ended (R80, R254): DONE with `ERR` 0, or ERROR with the code of a kind that is raised. -/
def State.Ended (t : State) : Prop :=
  (t.status.state = .done ∧ t.status.err = 0) ∨ (t.status.state = .error ∧ t.status.err ∈ errCodes ∧ t.status.err ≠ 0)

theorem State.ended_finish (h : s.status.err = 0) : s.finish.Ended := .inl ⟨rfl, h⟩

theorem State.ended_raise {e : ErrorKind} (he : e ≠ .truncatedChunk) : (s.raise e).Ended :=
  .inr ⟨rfl, ErrorKind.code_mem he⟩

/-- A command that writes `RESULT` only on success has ended (R27): the end, and `RESULT` kept by an error. -/
def EndsKeepingResult (s t : State) : Prop := t.Ended ∧ (t.status.state = .error → t.result = s.result)

theorem endsKeepingResult_finish {u : State} (h : u.status.err = 0) : EndsKeepingResult s u.finish :=
  ⟨State.ended_finish h, nofun⟩

theorem endsKeepingResult_raise {u : State} {e : ErrorKind} (he : e ≠ .truncatedChunk) (h : u.result = s.result) :
    EndsKeepingResult s (u.raise e) :=
  ⟨State.ended_raise he, fun _ => h⟩

theorem endCommand_decodeBody_ends (ch : Nat) (s : State) :
    EndsKeepingResult s (endCommand (decodeBody ch s.beginCommand)) := by
  rcases decodeBody_cases ch s.beginCommand with ⟨-, -, h⟩ | h <;> rw [h]
  · obtain ⟨-, br, ch0, ch1, out, -, -, -, hs⟩ := stream_cases s.beginCommand.release.clearFlags
      s.beginCommand.argOff.toNat s.beginCommand.argLen.toNat ch s.beginCommand.argN.toNat
    refine endsKeepingResult_finish ?_
    rw [hs]
    rfl
  · exact endsKeepingResult_raise nofun rfl

/-- Every command but PARSE. -/
theorem exec_endsKeepingResult {i : Instr} (hi : isCommand i = true) (hparse : i ≠ .parse) (h : exec i s = .next t) :
    EndsKeepingResult s t := by
  cases i with
  | parse => exact absurd rfl hparse
  | destroy => injection h with h; exact h ▸ endsKeepingResult_finish rfl
  | decodeMono => injection h with h; exact h ▸ endCommand_decodeBody_ends 1 s
  | decodeStereo => injection h with h; exact h ▸ endCommand_decodeBody_ends 2 s
  | brInit =>
    rcases execBrInit_next h with rfl | ⟨-, rfl⟩
    · exact endsKeepingResult_raise nofun rfl
    · exact endsKeepingResult_finish rfl
  | brReadBit => obtain ⟨v, rfl⟩ := execBrReadBit_next h; exact endsKeepingResult_finish rfl
  | brReadBits n =>
    rcases execBrReadBits_next h with rfl | ⟨v, rfl⟩
    · exact endsKeepingResult_raise nofun rfl
    · exact endsKeepingResult_finish rfl
  | chInit c =>
    rcases execChInit_next h with rfl | ⟨ch, -, rfl⟩
    · exact endsKeepingResult_raise nofun rfl
    · exact endsKeepingResult_finish (by simp)
  | chDecodeSample c =>
    rcases execChDecodeSample_next h with rfl | ⟨ch, out, -, ⟨v, rfl⟩ | rfl⟩
    · exact endsKeepingResult_raise nofun rfl
    · exact endsKeepingResult_finish (by simp)
    · exact endsKeepingResult_raise nofun (by simp)
  | _ => cases hi

/-! ## PARSE -/

/-- Inside a PARSE whose pre-checks have begun: `ERR` is still 0 and `RESULT` is 0 (R80, R222). -/
def State.NoResult (s : State) : Prop := s.status.err = 0 ∧ s.result = 0

theorem walkKeeps_noResult : WalkKeeps State.NoResult where
  push _ _ _ h := h
  pop _ h := h
  trunc _ h := h
  advance s len h := by rwa [State.NoResult, State.advance_status, State.advance_result]
  fields s t hf h := by rw [hf]; exact h
  decode s t hd h := by rw [hd]; exact h

theorem parseStart_noResult (h : s.status.err = 0) : (parseStart s).Meets State.NoResult State.NoResult := by
  unfold parseStart
  dsimp only
  split_ifs
  · exact ⟨nofun, h, rfl⟩
  · exact ⟨nofun, h, rfl⟩
  · exact ⟨nofun, h, rfl⟩
  · exact ⟨h, rfl⟩

theorem parseEnd_noResult (h : s.NoResult) : (parseEnd s).Meets State.NoResult State.NoResult := by
  unfold parseEnd
  split_ifs
  · exact ⟨nofun, h⟩
  · exact h

theorem parseBody_noResult (h : s.status.err = 0) : (parseBody s).Meets State.NoResult State.NoResult := by
  have hstart := parseStart_noResult h
  unfold parseBody
  split
  next e s' heq => rwa [heq] at hstart
  next s1 heq =>
    rw [heq] at hstart
    have hwalk := walkKeeps_noResult.walk (s1.inLen.toNat + 1) hstart
    split
    next e s' heq2 => rwa [heq2] at hwalk
    next s2 heq2 =>
      rw [heq2] at hwalk
      exact parseEnd_noResult hwalk

theorem endParse_ends {r : CmdResult} (h : r.Meets State.NoResult State.NoResult) :
    (endParse r).Ended ∧ (endParse r).result = 0 := by
  cases r with
  | ok s => exact ⟨State.ended_finish h.1, h.2⟩
  | raised e s =>
    obtain ⟨he, -, hresult⟩ := h
    exact ⟨State.ended_raise he, hresult⟩

theorem exec_parse_ends (h : exec .parse s = .next t) : t.Ended ∧ t.result = 0 := by
  injection h with h
  exact h ▸ endParse_ends (parseBody_noResult rfl)

/-- Settles O55: PARSE by the invariant of its walk, the other commands by what each answers. -/
theorem commandsEndOnce : Obligations.CommandsEndOnce := by
  intro i s t hi h
  by_cases hparse : i = .parse
  · subst hparse
    obtain ⟨hended, hresult⟩ := exec_parse_ends h
    exact ⟨hended, fun _ hne => absurd rfl hne, fun _ => hresult⟩
  · obtain ⟨hended, hkept⟩ := exec_endsKeepingResult hi hparse h
    refine ⟨hended, fun herror _ => hkept herror, ?_⟩
    rintro (rfl | rfl)
    · exact absurd rfl hparse
    · injection h with h
      exact h ▸ rfl

end Sys2Proof.Machine
end

section
/-! PROOFS. 40_bit_reader.md R113 to R116: the value of `read_bits`, and what BR_INIT, BR_READ_BIT and BR_READ_BITS answer. -/

namespace Sys2Proof.Machine

open Sys2Proof.Claims

variable {s : State}

/-! ## The bits come from the slice alone (R116) -/

theorem bitAt_congr {m m' : Memory 8} {br : BitReader}
    (h : ∀ a, br.base ≤ a → a < br.base + br.len → Memory.read m' a = Memory.read m a) (t : Nat) :
    bitAt m' br t = bitAt m br t := by
  unfold bitAt
  split_ifs with hin
  · rw [h _ (Nat.le_add_right _ _) (Nat.add_lt_add_left hin _)]
  · rfl

theorem bitsValue_congr {m m' : Memory 8} {br : BitReader}
    (h : ∀ a, br.base ≤ a → a < br.base + br.len → Memory.read m' a = Memory.read m a) (q n : Nat) :
    bitsValue m' br q n = bitsValue m br q n := by
  induction n with
  | zero => rfl
  | succ n ih => rw [bitsValue, bitsValue, ih, bitAt_congr h]

/-- Settles O14: the value is the bits at the position, and each of them is a bit of the slice or 0. -/
theorem readBitsValue : Obligations.ReadBitsValue := by
  intro m br n _
  refine ⟨readBits_snd m br n, readBits_fst m br n, fun m' hagree => ?_⟩
  rw [readBits_fst, readBits_fst, bitsValue_congr hagree]

/-! ## The two ends of a reader command (R80, R254) -/

/-- A command that raises before it has changed anything leaves its mark in `STATUS` alone. -/
theorem State.beginCommand_raise (e : ErrorKind) :
    s.beginCommand.raise e = { s with status := errorStatus s.status e.code } := rfl

/-- A command that only moved the reader and wrote `RESULT` changes these and `STATUS`. -/
theorem State.beginCommand_reader_finish (br : BitReader) (v : Word) :
    { s.beginCommand with br := br, result := v }.finish =
      { s with br := br, result := v, status := doneStatus s.status } := rfl

/-! ## What each reader command answers -/

theorem exec_brInit_inside (h : s.argSliceOk = true) :
    exec .brInit s = .next { s with
      br := bindReader s.argOff.toNat s.argLen.toNat, result := 0, status := doneStatus s.status } := by
  have hbody : brInitBody s.beginCommand =
      .ok { s.beginCommand with br := bindReader s.argOff.toNat s.argLen.toNat, result := 0 } := if_pos h
  calc exec .brInit s = .next (endCommand (brInitBody s.beginCommand)) := rfl
    _ = _ := by rw [hbody, endCommand_ok, State.beginCommand_reader_finish]

theorem exec_brInit_outside (h : ¬ s.argSliceOk = true) :
    exec .brInit s = .next { s with status := errorStatus s.status 9 } := by
  have hbody : brInitBody s.beginCommand = .raised .badArgument s.beginCommand := if_neg h
  calc exec .brInit s = .next (endCommand (brInitBody s.beginCommand)) := rfl
    _ = .next { s with status := errorStatus s.status ErrorKind.badArgument.code } := by
      rw [hbody, endCommand_raised, State.beginCommand_raise]

theorem exec_brReadBit (h : s.readerOk = true) :
    exec .brReadBit s = .next { s with
      br := readOn s.br 1, result := (BitVec.ofBool (bitAt s.inMem s.br s.br.pos)).setWidth 32
      status := doneStatus s.status } :=
  (if_pos h).trans (congrArg _ (State.beginCommand_reader_finish _ _))

theorem exec_brReadBits {n : Byte} (hn : n.toNat ≤ 32) (h : s.readerOk = true) :
    exec (.brReadBits n) s = .next { s with
      br := (readBits s.inMem s.br n.toNat).2, result := (readBits s.inMem s.br n.toNat).1
      status := doneStatus s.status } :=
  (if_neg (Nat.not_lt.2 hn)).trans ((if_pos h).trans (congrArg _ (State.beginCommand_reader_finish _ _)))

theorem exec_brReadBits_large {n : Byte} (hn : 32 < n.toNat) :
    exec (.brReadBits n) s = .next { s with status := errorStatus s.status 9 } :=
  (if_pos hn).trans (congrArg _ (State.beginCommand_raise .badArgument))

/-- Settles O17: the count's limit decides, and the bits read are their number. -/
theorem brReadBitsReturnsValue : Obligations.BrReadBitsReturnsValue := by
  refine fun s n => ⟨fun hn hreader => ?_, exec_brReadBits_large⟩
  rw [exec_brReadBits hn hreader, readBits_fst, readBits_snd]
  rfl

/-- Settles O15: the check of the argument slice over the integers decides. -/
theorem brInitBindsSlice : Obligations.BrInitBindsSlice := by
  refine fun s => ⟨fun hlen hslice => ?_, fun hout => ?_⟩
  · exact exec_brInit_inside (State.argSliceOk_iff.2 ⟨hlen, hslice⟩)
  · refine exec_brInit_outside (mt State.argSliceOk_iff.1 ?_)
    omega

/-- Settles O16: the bit at the position, as a word. -/
theorem brReadBitReturnsBit : Obligations.BrReadBitReturnsBit := by
  intro s hreader
  rw [exec_brReadBit hreader]
  cases bitAt s.inMem s.br s.br.pos <;> rfl

end Sys2Proof.Machine
end

section
/-! PROOFS. 41_dwop_channel.md R122, R126 to R129 and R140 to R147: the predictor selection, range normalisation, the
predictor cases and the energy update in plain arithmetic. -/

namespace Sys2Proof.Machine

open Sys2Proof.Claims

/-! ## The predictor selection and the quantizer step (R122, R123) -/

/-- `k` is the least index below `n` at which the energies below `n` take their minimum. -/
def IsLeastBelow (e : Five) (n k : Nat) : Prop :=
  k < n ∧ (∀ i < n, (e.get k).toNat ≤ (e.get i).toNat) ∧ ∀ i < k, (e.get k).toNat < (e.get i).toNat

theorem isLeastBelow_five (e : Five) (k : Nat) : IsLeastBelow e 5 k ↔ IsLeastIndex e k := Iff.rfl

theorem isLeastBelow_one (e : Five) : IsLeastBelow e 1 0 :=
  ⟨Nat.one_pos, fun i hi => by rw [Nat.lt_one_iff.1 hi], nofun⟩

/-- One step of the scan (R122): a strictly smaller energy replaces the least one seen so far. -/
theorem IsLeastBelow.scanEnergy {e : Five} {n k : Nat} (h : IsLeastBelow e n k) :
    IsLeastBelow e (n + 1) (scanEnergy e k n) := by
  obtain ⟨hk, hmin, hfirst⟩ := h
  unfold Machine.scanEnergy
  split_ifs with hlt
  · refine ⟨n.lt_succ_self, fun i hi => ?_, fun i hi => hlt.trans_le (hmin i hi)⟩
    rcases Nat.lt_succ_iff_lt_or_eq.1 hi with hi | rfl
    · exact (hlt.trans_le (hmin i hi)).le
    · exact le_rfl
  · refine ⟨hk.trans n.lt_succ_self, fun i hi => ?_, hfirst⟩
    rcases Nat.lt_succ_iff_lt_or_eq.1 hi with hi | rfl
    · exact hmin i hi
    · exact not_lt.1 hlt

/-- Settles O26: the scan keeps the least index of the energies it has seen. -/
theorem energyIndexIsLeastMinimum : Obligations.EnergyIndexIsLeastMinimum := by
  intro e
  rw [← isLeastBelow_five]
  simp only [energyIndex, List.foldl_cons, List.foldl_nil]
  exact (isLeastBelow_one e).scanEnergy.scanEnergy.scanEnergy.scanEnergy

theorem isLeastIndex_unique {e : Five} {k l : Nat} (hk : IsLeastIndex e k) (hl : IsLeastIndex e l) : k = l := by
  obtain ⟨hk5, hkmin, hkfirst⟩ := hk
  obtain ⟨hl5, hlmin, hlfirst⟩ := hl
  rcases lt_trichotomy k l with h | h | h
  · exact absurd (hkmin l hl5) (not_le.2 (hlfirst k h))
  · exact h
  · exact absurd (hlmin k hk5) (not_le.2 (hkfirst l h))

theorem energyIndex_eq {e : Five} {k : Nat} (h : IsLeastIndex e k) : energyIndex e = k :=
  isLeastIndex_unique (energyIndexIsLeastMinimum e) h

theorem minEnergy_eq {e : Five} {k : Nat} (h : IsLeastIndex e k) : minEnergy e = (e.get k).toNat := by
  obtain ⟨hk, hmin, -⟩ := h
  have h0 := hmin 0 (by decide)
  have h1 := hmin 1 (by decide)
  have h2 := hmin 2 (by decide)
  have h3 := hmin 3 (by decide)
  have h4 := hmin 4 (by decide)
  unfold minEnergy
  interval_cases k <;> simp only [Five.get] at * <;> omega

theorem quantStep_toNat (minE : Word) : (quantStep minE).toNat = (minE.toNat * 3 % 2 ^ 32 + 36) % 2 ^ 32 / 128 := by
  simp [quantStep, BitVec.toNat_add, BitVec.toNat_mul, Nat.shiftRight_eq_div_pow]

/-- The divisor the unary loop starts with is R123's step of the least energy. -/
theorem quantStep_energyIndex (e : Five) : (quantStep (e.get (energyIndex e))).toNat = stepOf e := by
  rw [quantStep_toNat, stepOf, minEnergy_eq (energyIndexIsLeastMinimum e)]

/-! ## Range normalisation (R126 to R129) -/

theorem toNat_ofNat_two_pow {k : Nat} (hk : k ≤ 31) : (BitVec.ofNat 32 (2 ^ k)).toNat = 2 ^ k := by
  rw [BitVec.toNat_ofNat]
  exact Nat.mod_eq_of_lt (Nat.pow_lt_pow_right (by omega) (by omega))

/-- The bits of the remainder part, by the number of binary digits of the divisor. -/
theorem nbOf_eq (cs : Nat) : nbOf cs = (cs.size : Int) - 1 := by
  unfold nbOf
  split_ifs with h
  · rw [h]; rfl
  · have hlog : cs.size = Nat.log 2 cs + 1 := by
      apply le_antisymm
      · exact Nat.size_le.2 (Nat.lt_pow_succ_log_self (by decide) cs)
      · exact Nat.lt_size.2 (Nat.pow_log_le_self 2 h)
    omega

theorem rangeOf_eq (cs : Nat) : rangeOf cs = 2 ^ cs.size := by
  rw [rangeOf, nbOf_eq]
  congr 1
  omega

theorem lt_rangeOf (cs : Nat) : cs < rangeOf cs := by
  rw [rangeOf_eq]
  exact Nat.lt_size_self cs

theorem rangeOf_le {cs : Nat} (h : 1 ≤ cs) : rangeOf cs ≤ 2 * cs := by
  obtain ⟨n, hn⟩ : ∃ n, cs.size = n + 1 := Nat.exists_eq_succ_of_ne_zero (Nat.size_pos.2 h).ne'
  have hle : 2 ^ n ≤ cs := Nat.lt_size.1 (by omega)
  rw [rangeOf_eq, hn, pow_succ]
  omega

theorem toNat_ofNat_rangeOf {cs : Nat} (h : cs < 2 ^ 31) : (BitVec.ofNat 32 (rangeOf cs)).toNat = rangeOf cs := by
  rw [rangeOf_eq, toNat_ofNat_two_pow (Nat.size_le.2 h)]

/-- R126: doubling from `2^k` at most the divisor ends at the first power of two above it. -/
theorem normaliseUp_eq {cs : Word} (hcs : cs.toNat < 2 ^ 31) {f k : Nat} (hk : k ≤ cs.toNat.size)
    (hf : cs.toNat.size - k < f) :
    normaliseUp cs f (BitVec.ofNat 32 (2 ^ k)) (k - 1) =
      some (BitVec.ofNat 32 (2 ^ cs.toNat.size), (cs.toNat.size : Int) - 1) := by
  have hsize : cs.toNat.size ≤ 31 := Nat.size_le.2 hcs
  induction f generalizing k with
  | zero => omega
  | succ f ih =>
    rw [normaliseUp, toNat_ofNat_two_pow (by omega), ofNat_two_pow_shiftLeft]
    split_ifs with hle hzero
    · have hlt := Nat.lt_size.2 hle
      have := congrArg BitVec.toNat hzero
      rw [toNat_ofNat_two_pow (by omega)] at this
      exact absurd this (Nat.two_pow_pos _).ne'
    · have hlt := Nat.lt_size.2 hle
      rw [show (k : Int) - 1 + 1 = (k + 1 : Nat) - 1 by omega]
      exact ih hlt (by omega)
    · rw [le_antisymm hk (Nat.size_le.2 (not_le.1 hle))]

/-- R127: doubling never passes a divisor of 2^31 or more before the range value is 0. -/
theorem normaliseUp_eq_none {cs : Word} (hcs : 2 ^ 31 ≤ cs.toNat) {f k : Nat} (hk : k ≤ 31) (nb : Int) :
    normaliseUp cs f (BitVec.ofNat 32 (2 ^ k)) nb = none := by
  induction f generalizing k nb with
  | zero => rfl
  | succ f ih =>
    have hle : 2 ^ k ≤ cs.toNat := (Nat.pow_le_pow_right (by decide) hk).trans hcs
    rw [normaliseUp, toNat_ofNat_two_pow hk, if_pos hle, ofNat_two_pow_shiftLeft]
    split_ifs with hzero
    · rfl
    · have hne : k ≠ 31 := by
        rintro rfl
        exact hzero rfl
      exact ih (by omega) _

/-- R128: halving from `2^k` above the divisor ends at the least power of two above it. -/
theorem normaliseDown_eq {cs : Word} {f k : Nat} (hk : cs.toNat.size ≤ k) (hk31 : k ≤ 31) (hf : k < f) :
    normaliseDown cs f (BitVec.ofNat 32 (2 ^ k)) k =
      (BitVec.ofNat 32 (2 ^ cs.toNat.size), (cs.toNat.size : Int) - 1) := by
  induction f generalizing k with
  | zero => omega
  | succ f ih =>
    rw [normaliseDown]
    cases k with
    | zero =>
      rw [Nat.le_zero.1 hk]
      exact if_pos (Nat.zero_le _)
    | succ k =>
      rw [ofNat_two_pow_shiftRight (by omega), toNat_ofNat_two_pow (by omega)]
      split_ifs with hle
      · rw [le_antisymm hk (Nat.lt_size.2 hle)]
      · rw [show ((k + 1 : Nat) : Int) - 1 = k by omega]
        exact ih (Nat.size_le.2 (not_le.1 hle)) (by omega) (by omega)

/-- R129: range normalisation below 2^31 does not depend on the range value it starts from. -/
theorem normalise_eq {cs rv : Word} {ba : Int} (h : IsRange rv ba) (hcs : cs.toNat < 2 ^ 31) :
    normalise cs rv ba = some (BitVec.ofNat 32 (rangeOf cs.toNat), nbOf cs.toNat) := by
  obtain ⟨k, hk, rfl, rfl⟩ := h
  have hsize : cs.toNat.size ≤ 31 := Nat.size_le.2 hcs
  rw [rangeOf_eq, nbOf_eq, normalise, toNat_ofNat_two_pow hk]
  split_ifs with hle
  · have hlt := Nat.lt_size.2 hle
    exact normaliseUp_eq hcs hlt.le (by omega)
  · rw [show (k : Int) - 1 + 1 = k by omega,
      normaliseDown_eq (Nat.size_le.2 (not_le.1 hle)) hk (by omega)]

theorem normalise_eq_none {cs rv : Word} {ba : Int} (h : IsRange rv ba) (hcs : 2 ^ 31 ≤ cs.toNat) :
    normalise cs rv ba = none := by
  obtain ⟨k, hk, rfl, rfl⟩ := h
  have hle : 2 ^ k ≤ cs.toNat := (Nat.pow_le_pow_right (by decide) hk).trans hcs
  rw [normalise, toNat_ofNat_two_pow hk, if_pos hle]
  exact normaliseUp_eq_none hcs hk _

/-- Settles O23: below 2^31 the result is the least power of two above the divisor, and from 2^31 up there is none. -/
theorem normalisationInvariant : Obligations.NormalisationInvariant := by
  intro cs rv ba hlow hhigh hrv
  have hrange : IsRange rv ba := isRange_iff.2 ⟨⟨hlow, hhigh⟩, hrv⟩
  rcases Nat.lt_or_ge cs.toNat (2 ^ 31) with hcs | hcs
  · rw [normalise_eq hrange hcs]
    refine ⟨iff_of_false nofun (not_le.2 hcs), fun r nb hsome => ?_⟩
    injection hsome with hpair
    injection hpair with hr hnb
    subst hr hnb
    rw [toNat_ofNat_rangeOf hcs]
    refine ⟨?_, rfl, lt_rangeOf _, rangeOf_le, fun hzero => ?_⟩
    · rw [nbOf_eq]
      omega
    · rw [hzero]
      exact ⟨rfl, rfl⟩
  · rw [normalise_eq_none hrange hcs]
    exact ⟨iff_of_true rfl hcs, nofun⟩

/-! ## The zig-zag map (R131) -/

theorem zigzag_eq_deltaOf (val : Word) : zigzag val = deltaOf val := by
  unfold deltaOf
  split_ifs with h
  · exact zigzag_of_even h
  · exact zigzag_of_odd (by omega)

/-! ## The predictor cases (R140 to R147) -/

/-- R147: the delta enters at position `k`. -/
theorem predOf_self (k : Nat) (o : Five) (d : Word) : predOf k o d k = d := by
  simp [predOf]

/-- R147: a position below `k` is rebuilt by adding the old value to the position above it. -/
theorem predOf_below {k j : Nat} (h : j < k) (o : Five) (d : Word) :
    predOf k o d j = o.get j + predOf k o d (j + 1) := by
  simp only [predOf, Finset.sum_eq_sum_Ico_succ_bot h, Finset.Ico_eq_empty_of_le h.le,
    Finset.Ico_eq_empty_of_le (Nat.succ_le_of_lt h), Finset.sum_empty]
  ring

/-- R147: a position above `k` is rebuilt by taking the old value below it from the position below it. -/
theorem predOf_above {k j : Nat} (h : k ≤ j) (o : Five) (d : Word) :
    predOf k o d (j + 1) = predOf k o d j - o.get j := by
  simp only [predOf, Finset.sum_Ico_succ_top h, Finset.Ico_eq_empty_of_le h,
    Finset.Ico_eq_empty_of_le (h.trans j.le_succ), Finset.sum_empty]
  ring

theorem predictK0_eq (o : Five) (d : Word) : predictK0 o d = fiveOf (predOf 0 o d) := by
  simp only [fiveOf, predOf_self, predOf_above, Nat.reduceLeDiff]
  rfl

theorem predictK1_eq (o : Five) (d : Word) : predictK1 o d = fiveOf (predOf 1 o d) := by
  simp only [fiveOf, predOf_self, predOf_above, predOf_below, Nat.reduceAdd, Nat.reduceLT, Nat.reduceLeDiff]
  rfl

theorem predictK2_eq (o : Five) (d : Word) : predictK2 o d = fiveOf (predOf 2 o d) := by
  simp only [fiveOf, predOf_self, predOf_above, predOf_below, Nat.reduceAdd, Nat.reduceLT, Nat.reduceLeDiff]
  rfl

theorem predictK3_eq (o : Five) (d : Word) : predictK3 o d = fiveOf (predOf 3 o d) := by
  simp only [fiveOf, predOf_self, predOf_above, predOf_below, Nat.reduceAdd, Nat.reduceLT, Nat.reduceLeDiff]
  rfl

theorem predictK4_eq (o : Five) (d : Word) : predictK4 o d = fiveOf (predOf 4 o d) := by
  simp only [fiveOf, predOf_self, predOf_below, Nat.reduceAdd, Nat.reduceLT]
  rfl

/-- Step 7 (R134) is R147's common form at the energy index. -/
theorem predict_eq {k : Nat} (hk : k < 5) (o : Five) (d : Word) : predict k o d = fiveOf (predOf k o d) := by
  interval_cases k
  · exact predictK0_eq o d
  · exact predictK1_eq o d
  · exact predictK2_eq o d
  · exact predictK3_eq o d
  · exact predictK4_eq o d

/-! ## The energy update and the sample (R145, R146) -/

theorem sshiftRight_31 (x : Word) : x.sshiftRight 31 = if x.toInt < 0 then BitVec.allOnes 32 else 0 := by
  have hlow := BitVec.le_toInt x
  have hhigh := BitVec.toInt_lt (x := x)
  apply BitVec.eq_of_toInt_eq
  rw [BitVec.toInt_sshiftRight, Int.shiftRight_eq_div_pow]
  split_ifs with h
  · rw [BitVec.toInt_allOnes]
    omega
  · rw [show (0 : Word).toInt = 0 from rfl]
    omega

/-- R145: exclusive-or with the sign is the magnitude, one less for a negative value. -/
theorem absBiased_eq (x : Word) : absBiased x = BitVec.ofInt 32 (biasedAbs x) := by
  rw [absBiased, biasedAbs, sshiftRight_31]
  split_ifs with h
  · rw [BitVec.xor_allOnes, BitVec.not_eq_neg_add, sub_eq_add_neg, sub_eq_add_neg, BitVec.ofInt_add, BitVec.ofInt_neg,
      BitVec.ofInt_toInt]
    rfl
  · rw [BitVec.ofInt_toInt]
    exact BitVec.xor_zero

theorem energyOne_eq (e x : Word) : energyOne e x = energyOf e x := by
  have hnat : (e >>> 5).toNat = e.toNat / 32 := by rw [BitVec.toNat_ushiftRight, Nat.shiftRight_eq_div_pow]
  have hint : (e.toNat : Int) / (32 : Int) = ((e >>> 5).toNat : Int) := by omega
  have hshift : e >>> 5 = BitVec.ofInt 32 (e.toNat / 32) := by
    rw [hint, BitVec.ofInt_natCast, BitVec.ofNat_toNat, BitVec.setWidth_eq]
  rw [energyOne, energyOf, hshift, absBiased_eq, sub_eq_add_neg, sub_eq_add_neg, BitVec.ofInt_add, BitVec.ofInt_add,
    BitVec.ofInt_neg, BitVec.ofInt_natCast, BitVec.ofNat_toNat, BitVec.setWidth_eq]

theorem energyUpdate_eq (e s : Five) : energyUpdate e s = fiveOf fun i => energyOf (e.get i) (s.get i) := by
  simp only [energyUpdate, energyOne_eq]
  rfl

theorem fiveOf_get (f : Nat → Word) {i : Nat} (hi : i < 5) : (fiveOf f).get i = f i := by
  interval_cases i <;> rfl

/-- Settles O27: register by register. -/
theorem energyUpdateBiased : Obligations.EnergyUpdateBiased := by
  intro e s i hi
  rw [energyUpdate_eq, fiveOf_get _ hi]

theorem sampleResult_emitSample (s : Five) : sampleResult (emitSample s) = sampleOf s.r0 := by
  have htrunc : ((s.r0.sshiftRight 1).setWidth 16).toInt = Int.bmod (s.r0.toInt / 2) (2 ^ 16) := by
    rw [BitVec.toInt_setWidth, ← Int.bmod_bmod_of_dvd (m := 2 ^ 32) (by decide), ← BitVec.toInt_eq_toNat_bmod,
      BitVec.toInt_sshiftRight, Int.shiftRight_eq_div_pow]
    rfl
  rw [sampleResult, emitSample, BitVec.signExtend, htrunc, sampleOf]

end Sys2Proof.Machine
end

section
/-! PROOFS. 41_dwop_channel.md R120 to R133, R151 and R152: what CH_INIT and CH_DECODE_SAMPLE answer. -/

namespace Sys2Proof.Machine

open Sys2Proof.Claims

variable {s : State}

/-! ## The unary loop (R124, R125) -/

@[simp] theorem readOn_readOn (br : BitReader) (a b : Nat) : readOn (readOn br a) b = readOn br (a + b) := by
  simp only [readOn, Nat.add_assoc]

@[simp] theorem bitAt_readOn (m : Memory 8) (br : BitReader) (n t : Nat) : bitAt m (readOn br n) t = bitAt m br t := rfl

@[simp] theorem bitsValue_readOn (m : Memory 8) (br : BitReader) (a q n : Nat) :
    bitsValue m (readOn br a) q n = bitsValue m br q n := by
  induction n with
  | zero => rfl
  | succ n ih => rw [bitsValue, bitsValue, ih, bitAt_readOn]

theorem readBit_eq (m : Memory 8) (br : BitReader) : readBit m br = (bitAt m br br.pos, readOn br 1) := rfl

theorem unaryLoop_of_stop {m : Memory 8} {br : BitReader} (h : bitAt m br br.pos = true) (n : Nat) (u : UnaryRegs) :
    unaryLoop m (n + 1) u br = (some u, readOn br 1) := by
  rw [unaryLoop, readBit_eq, h]

theorem unaryLoop_of_zero {m : Memory 8} {br : BitReader} (h : bitAt m br br.pos = false) (n : Nat) (u : UnaryRegs) :
    unaryLoop m (n + 1) u br = unaryLoop m n (unaryZero u) (readOn br 1) := by
  rw [unaryLoop, readBit_eq, h]

/-- The bits after a first one, as the bits from the next position on. -/
theorem zeros_readOn {m : Memory 8} {br : BitReader} {z : Nat} (h : ∀ j < z + 1, bitAt m br (br.pos + j) = false) :
    ∀ j < z, bitAt m (readOn br 1) ((readOn br 1).pos + j) = false := by
  intro j hj
  rw [bitAt_readOn, ← h (j + 1) (by omega), readOn, Nat.add_right_comm, Nat.add_assoc]

/-- R124: `z` zero bits and a stop bit below the cap leave the loop with `z` zeros counted. -/
theorem unaryLoop_stops {m : Memory 8} {br : BitReader} {z n : Nat} (u : UnaryRegs)
    (hzeros : ∀ j < z, bitAt m br (br.pos + j) = false) (hstop : bitAt m br (br.pos + z) = true) (hn : z < n) :
    unaryLoop m n u br = (some (unaryZero^[z] u), readOn br (z + 1)) := by
  induction z generalizing n u br with
  | zero =>
    obtain ⟨n, rfl⟩ := Nat.exists_eq_add_of_lt hn
    rw [unaryLoop_of_stop hstop]
    rfl
  | succ z ih =>
    obtain ⟨n, rfl⟩ := Nat.exists_eq_add_of_lt hn
    have hnext : bitAt m (readOn br 1) ((readOn br 1).pos + z) = true := by
      rw [bitAt_readOn, ← hstop, readOn, Nat.add_assoc, Nat.add_comm 1]
    rw [unaryLoop_of_zero (hzeros 0 z.succ_pos), ih _ (zeros_readOn hzeros) hnext (by omega), readOn_readOn,
      Function.iterate_succ_apply, Nat.add_comm 1]

/-- R125: zero bits up to the cap end the loop at the cap. -/
theorem unaryLoop_caps {m : Memory 8} {br : BitReader} {n : Nat} (u : UnaryRegs)
    (hzeros : ∀ j < n, bitAt m br (br.pos + j) = false) : unaryLoop m n u br = (none, readOn br n) := by
  induction n generalizing u br with
  | zero => rfl
  | succ n ih =>
    rw [unaryLoop_of_zero (hzeros 0 n.succ_pos), ih _ (zeros_readOn hzeros), readOn_readOn, Nat.add_comm 1]

/-- R111: from the end of the slice on every bit is 0. -/
theorem bitAt_past {m : Memory 8} {br : BitReader} {t : Nat} (h : 8 * br.len ≤ t) : bitAt m br t = false :=
  if_neg (by omega)

/-- The registers of the unary loop after `z` zero bits (R96). -/
def unaryAfter (step z : Nat) : UnaryRegs where
  acc := BitVec.ofNat 32 (accOf step z)
  cs := BitVec.ofNat 32 (csOf step z)
  qc := 7 - z % 7
  z := z

theorem unaryStart_eq (e : Five) : unaryStart e = unaryAfter (stepOf e) 0 := by
  have hcs : BitVec.ofNat 32 (csOf (stepOf e) 0) = quantStep (e.get (energyIndex e)) := by
    rw [← quantStep_energyIndex, csOf, Nat.zero_div, pow_zero, Nat.mul_one, Nat.mod_eq_of_lt (BitVec.isLt _),
      BitVec.ofNat_toNat, BitVec.setWidth_eq]
  rw [unaryAfter, hcs]
  rfl

theorem ofNat_mod (n : Nat) : BitVec.ofNat 32 (n % 2 ^ 32) = BitVec.ofNat 32 n := by
  apply BitVec.eq_of_toNat_eq
  simp

/-- R96: the sum of the divisors grows by the divisor of the zero bit read. -/
theorem unaryAfter_acc (step z : Nat) :
    (unaryAfter step z).acc + (unaryAfter step z).cs = (unaryAfter step (z + 1)).acc := by
  simp only [unaryAfter, accOf, csOf, ofNat_mod, Finset.sum_range_succ, BitVec.ofNat_add]

theorem shiftLeft_two (x : Word) : x <<< 2 = x * 4 := by
  apply BitVec.eq_of_toNat_eq
  rw [BitVec.toNat_shiftLeft, BitVec.toNat_mul, Nat.shiftLeft_eq]
  rfl

/-- R148: every seventh zero bit quadruples the divisor. -/
theorem unaryAfter_cs_seventh (step : Nat) {z : Nat} (h : z % 7 = 6) :
    (unaryAfter step z).cs <<< 2 = (unaryAfter step (z + 1)).cs := by
  have hpow : 4 ^ ((z + 1) / 7) = 4 ^ (z / 7) * 4 := by
    rw [show (z + 1) / 7 = z / 7 + 1 by omega, pow_succ]
  simp only [shiftLeft_two, unaryAfter, csOf, ofNat_mod, hpow, ← Nat.mul_assoc, BitVec.ofNat_mul]
  rfl

theorem unaryAfter_cs_between (step : Nat) {z : Nat} (h : z % 7 ≠ 6) :
    (unaryAfter step z).cs = (unaryAfter step (z + 1)).cs := by
  have hdiv : (z + 1) / 7 = z / 7 := by omega
  simp only [unaryAfter, csOf, hdiv]

/-- R148: one zero bit more. -/
theorem unaryZero_unaryAfter (step z : Nat) : unaryZero (unaryAfter step z) = unaryAfter step (z + 1) := by
  have hqc : (unaryAfter step z).qc = 7 - z % 7 := rfl
  have hqc' : (unaryAfter step (z + 1)).qc = 7 - (z + 1) % 7 := rfl
  rw [unaryZero, unaryAfter_acc]
  split_ifs with hlast
  · rw [unaryAfter_cs_seventh step (by omega), show 7 = (unaryAfter step (z + 1)).qc by omega]
    rfl
  · rw [unaryAfter_cs_between step (by omega),
      show (unaryAfter step z).qc - 1 = (unaryAfter step (z + 1)).qc by omega]
    rfl

theorem iterate_unaryZero (e : Five) (z : Nat) : unaryZero^[z] (unaryStart e) = unaryAfter (stepOf e) z := by
  induction z with
  | zero => exact unaryStart_eq e
  | succ z ih => rw [Function.iterate_succ_apply', ih, unaryZero_unaryAfter]

theorem unaryAfter_cs_toNat (step z : Nat) : (unaryAfter step z).cs.toNat = csOf step z := by
  rw [unaryAfter, BitVec.toNat_ofNat]
  exact Nat.mod_eq_of_lt (Nat.mod_lt _ (Nat.two_pow_pos 32))

/-! ## The remainder and the delta (R126 to R131) -/

/-- The remainder after normalisation, for every divisor below 2^31; for 0 it is 0 and takes no bit. -/
theorem readRemainder_rangeOf (m : Memory 8) {cs : Word} (hcs : cs.toNat < 2 ^ 31) (br : BitReader) :
    let nb := (nbOf cs.toNat).toNat
    let co := rangeOf cs.toNat - cs.toNat
    let ext := bitsValue m br br.pos nb
    readRemainder m cs (BitVec.ofNat 32 (rangeOf cs.toNat)) (nbOf cs.toNat) br =
      (BitVec.ofNat 32 (remOf co ext (bitAt m br (br.pos + nb)).toNat),
        readOn br (nb + if ext < co then 0 else 1)) := by
  intro nb co ext
  rcases Nat.eq_zero_or_pos cs.toNat with hzero | hpos
  · obtain rfl : cs = 0 := BitVec.eq_of_toNat_eq hzero
    rfl
  · have hnb : nbOf cs.toNat = (nb : Int) := by
      have hsize := Nat.size_pos.2 hpos
      have hnb := nbOf_eq cs.toNat
      omega
    have hr := toNat_ofNat_rangeOf hcs
    have hpow : (BitVec.ofNat 32 (rangeOf cs.toNat)).toNat = 2 ^ (nb + 1) := by
      rw [hr, rangeOf, hnb]
      rfl
    obtain ⟨hval, hbr⟩ := readRemainder_eq (hr.symm ▸ lt_rangeOf _) hpow m br
    rw [hr] at hval hbr
    rw [hnb]
    refine Prod.ext ?_ ?_
    · rw [← hval, BitVec.ofNat_toNat, BitVec.setWidth_eq]
    · rw [hbr]
      split_ifs <;> rfl

theorem rangeDecode_collapse (m : Memory 8) {rv : Word} {ba : Int} (h : IsRange rv ba) {u : UnaryRegs}
    (hcs : 2 ^ 31 ≤ u.cs.toNat) (br : BitReader) : rangeDecode m rv ba u br = (none, br) := by
  rw [rangeDecode, normalise_eq_none h hcs]

/-- Steps 4 to 6 on a range value `2^(ba+1)` and a divisor below 2^31. -/
theorem rangeDecode_eq (m : Memory 8) {rv : Word} {ba : Int} (h : IsRange rv ba) {u : UnaryRegs} {cs : Nat}
    (hu : u.cs.toNat = cs) (hcs : cs < 2 ^ 31) (br : BitReader) :
    let nb := (nbOf cs).toNat
    let co := rangeOf cs - cs
    let ext := bitsValue m br br.pos nb
    rangeDecode m rv ba u br =
      (some {
          rv := BitVec.ofNat 32 (rangeOf cs), ba := nbOf cs
          d := deltaOf (u.acc + BitVec.ofNat 32 (remOf co ext (bitAt m br (br.pos + nb)).toNat)) },
        readOn br (nb + if ext < co then 0 else 1)) := by
  subst hu
  rw [rangeDecode, normalise_eq h hcs]
  simp only [readRemainder_rangeOf m hcs, zigzag_eq_deltaOf]

/-! ## The whole sample (R120 to R133) -/

theorem sample_of_dead (m : Memory 8) (cap : Nat) {ch : Channel} (h : ch.dead = true) (br : BitReader) :
    sample m cap ch br = failSample ch br := if_pos h

theorem setDead_of_dead {ch : Channel} (h : ch.dead = true) : { ch with dead := true } = ch := by rw [← h]

/-- How a sample goes on after steps 4 to 6: it fails on a range collapse, and else completes. -/
def afterRange (ch : Channel) : Option RangeOut × BitReader → SampleOut
  | (none, br) => failSample ch br
  | (some r, br) => completeSample ch r br

/-- How a sample goes on after its unary loop (R125): it fails at the cap, and else takes its range steps. -/
def afterUnary (m : Memory 8) (ch : Channel) : Option UnaryRegs × BitReader → SampleOut
  | (none, br) => failSample ch br
  | (some u, br) => afterRange ch (rangeDecode m ch.rv ch.ba u br)

theorem sample_of_live {m : Memory 8} {cap : Nat} {ch : Channel} {br : BitReader} (hlive : ch.dead = false) :
    sample m cap ch br = afterUnary m ch (unaryLoop m cap (unaryStart ch.e) br) := by
  rw [sample, if_neg (by rw [hlive]; decide)]
  rcases unaryLoop m cap (unaryStart ch.e) br with ⟨_ | u, br'⟩ <;> rfl

/-- A sample whose code word has `z` zeros and a stop bit goes on with the registers of R96. -/
theorem sample_of_code {m : Memory 8} {cap z : Nat} {ch : Channel} {br : BitReader} (hlive : ch.dead = false)
    (hzeros : ∀ j < z, bitAt m br (br.pos + j) = false) (hstop : bitAt m br (br.pos + z) = true) (hz : z < cap) :
    sample m cap ch br =
      afterRange ch (rangeDecode m ch.rv ch.ba (unaryAfter (stepOf ch.e) z) (readOn br (z + 1))) := by
  rw [sample_of_live hlive, unaryLoop_stops _ hzeros hstop hz, iterate_unaryZero, afterUnary]

theorem completeSample_eq {ch : Channel} (hlive : ch.dead = false) {k : Nat} (hk : IsLeastIndex ch.e k) {r : RangeOut}
    {rv : Nat} (hrv : r.rv = BitVec.ofNat 32 rv) (br : BitReader) :
    (completeSample ch r br).chan = channelAfter ch k r.d rv r.ba := by
  rw [completeSample, channelAfter, energyIndex_eq hk, predict_eq hk.1, energyUpdate_eq, hrv, hlive]

/-! ## The commands (R151, R152) -/

/-- What CH_DECODE_SAMPLE leaves of the state it began in, by how its sample ended (R133, R152). -/
def State.sampleEnd (s : State) (c : Chan) (out : SampleOut) : State :=
  match out.out with
  | none => { s.setChan c out.chan with br := out.reader, status := errorStatus s.status 5 }
  | some v => { s.setChan c out.chan with br := out.reader, result := sampleResult v, status := doneStatus s.status }

theorem State.sampleEnd_failSample (s : State) (c : Chan) (ch : Channel) (br : BitReader) :
    s.sampleEnd c (failSample ch br) =
      { s.setChan c { ch with dead := true } with br := br, status := errorStatus s.status 5 } := rfl

theorem State.sampleEnd_completeSample (s : State) (c : Chan) (ch : Channel) (r : RangeOut) (br : BitReader) :
    s.sampleEnd c (completeSample ch r br) =
      { s.setChan c (completeSample ch r br).chan with
        br := br, result := sampleOf (completeSample ch r br).chan.s.r0, status := doneStatus s.status } := by
  simp only [State.sampleEnd, completeSample, sampleResult_emitSample]

theorem endCommand_chDecodeBody (s : State) (c : Chan) :
    endCommand (chDecodeBody c s.beginCommand) =
      s.sampleEnd c (sample s.inMem s.params.unaryCap (s.chan c) s.br) := by
  have hbegin : sample s.beginCommand.inMem s.beginCommand.params.unaryCap (s.beginCommand.chan c) s.beginCommand.br =
      sample s.inMem s.params.unaryCap (s.chan c) s.br := rfl
  rw [chDecodeBody, hbegin]
  rcases sample s.inMem s.params.unaryCap (s.chan c) s.br with ⟨br, ch, _ | v⟩
  · cases c <;> rfl
  · cases c <;> rfl

/-- CH_DECODE_SAMPLE runs the sample, on a dead channel whatever its reader (R121). -/
theorem exec_chDecodeSample {op : Byte} {c : Chan} (hop : chanOf op = some c)
    (h : (s.chan c).dead = true ∨ s.readerOk = true) :
    exec (.chDecodeSample op) s =
      .next (s.sampleEnd c (sample s.inMem s.params.unaryCap (s.chan c) s.br)) := by
  have hexec : exec (.chDecodeSample op) s = execChDecodeSample op s := rfl
  rw [hexec, execChDecodeSample, hop, ← endCommand_chDecodeBody]
  exact if_pos (by simpa using h)

/-- Settles O18: by the operand. -/
theorem chInitRestoresChannel : Obligations.ChInitRestoresChannel := by
  refine ⟨fun s => rfl, fun s => rfl, fun s c hc => ?_⟩
  have hexec : exec (.chInit c) s = execChInit c s := rfl
  rw [hexec, execChInit, (chanOf_eq_none_iff c).2 hc]
  rfl

/-- Settles O22: a dead channel fails as it stands, and an operand above 1 names no channel. -/
theorem deadChannelFailsAtOnce : Obligations.DeadChannelFailsAtOnce := by
  refine ⟨fun m cap ch br h => ?_, fun s op c hop hdead => ?_, fun s op hop => ?_⟩
  · rw [sample_of_dead m cap h, failSample, setDead_of_dead h]
  · rw [exec_chDecodeSample hop (.inl hdead), sample_of_dead _ _ hdead, State.sampleEnd_failSample,
      setDead_of_dead hdead, State.setChan_chan]
  · have hexec : exec (.chDecodeSample op) s = execChDecodeSample op s := rfl
    rw [hexec, execChDecodeSample, (chanOf_eq_none_iff op).2 hop]
    rfl

/-- Settles O21: with no stop bit the unary loop ends at its cap. -/
theorem unaryCapFails : Obligations.UnaryCapFails := by
  intro s op c hop hlive hreader hzeros
  have hbits : ∀ j < s.params.unaryCap, bitAt s.inMem s.br (s.br.pos + j) = false := by
    rcases hzeros with hzeros | hpast
    · exact hzeros
    · exact fun j _ => bitAt_past (by omega)
  rw [exec_chDecodeSample hop (.inr hreader), sample_of_live hlive, unaryLoop_caps _ hbits, afterUnary,
    State.sampleEnd_failSample]

/-- Settles O20: the divisor after the unary part collapses the range, which reads no bit more. -/
theorem rangeCollapseFails : Obligations.RangeCollapseFails := by
  intro s op c z hop hlive hgood hreader hzeros hstop hz hcs
  have hrange := (Channel.good_iff.1 hgood).1
  rw [exec_chDecodeSample hop (.inr hreader), sample_of_code hlive hzeros hstop hz,
    rangeDecode_collapse _ hrange (by rwa [unaryAfter_cs_toNat]), afterRange, State.sampleEnd_failSample]

/-- Settles O19: the unary part, the range steps and the predictor each in plain arithmetic. -/
theorem decodedSampleClosedForm : Obligations.DecodedSampleClosedForm := by
  intro s op c k z hop hlive hgood hreader hk hzeros hstop hz cs nb co ext x d ch' hcs
  have hdecode := rangeDecode_eq s.inMem (Channel.good_iff.1 hgood).1 (unaryAfter_cs_toNat (stepOf (s.chan c).e) z) hcs
    (readOn s.br (z + 1))
  have hrange : rangeDecode s.inMem (s.chan c).rv (s.chan c).ba (unaryAfter (stepOf (s.chan c).e) z) (readOn s.br (z + 1)) =
      (some { rv := BitVec.ofNat 32 (rangeOf cs), ba := nbOf cs, d := d },
        readOn s.br (z + 1 + nb + if ext < co then 0 else 1)) := by
    simp only [bitsValue_readOn, bitAt_readOn, readOn_readOn, unaryAfter, ← BitVec.ofNat_add] at hdecode
    rw [Nat.add_assoc (z + 1)]
    exact hdecode
  rw [exec_chDecodeSample hop (.inr hreader), sample_of_code hlive hzeros hstop hz, hrange, afterRange,
    State.sampleEnd_completeSample, completeSample_eq hlive hk rfl]

end Sys2Proof.Machine
end

section
/-! PROOFS. 41_dwop_channel.md R134, R148, R149 and the sample symbol by symbol (log 4): what the unary bits and the
predictor cases do, and that the steps of a sample end where CH_DECODE_SAMPLE does. -/

namespace Sys2Proof.Machine

open Sys2Proof.Claims

variable {s t u : State} {c : Chan}

/-! ## The instructions inside a sample -/

theorem exec_unaryZero {r : UnaryRegs} (h : s.work = .unary c r) :
    exec .unaryZero s = .next { s with work := .unary c (unaryZero r) } := by
  have hexec : exec .unaryZero s = execUnaryZero s := rfl
  rw [hexec, execUnaryZero, h]

theorem exec_unaryStop {r : UnaryRegs} (h : s.work = .unary c r) :
    exec .unaryStop s = .next { s with work := .range c r } := by
  have hexec : exec .unaryStop s = execUnaryStop s := rfl
  rw [hexec, execUnaryStop, h]

theorem predictorStep_eq {d : Word} (h : s.work = .predict c d) (update : Five → Word → Five) :
    predictorStep update s =
      .next { s.setChan c { s.chan c with s := update (s.chan c).s d } with work := .emit c } := by
  rw [predictorStep, h]

theorem unaryZero_of_seventh {r : UnaryRegs} (h : r.qc = 1) :
    unaryZero r = { acc := r.acc + r.cs, cs := r.cs * 4, qc := 7, z := r.z + 1 } := by
  rw [unaryZero, if_pos (by omega), shiftLeft_two]

theorem unaryZero_of_before {r : UnaryRegs} (h : 2 ≤ r.qc) :
    unaryZero r = { acc := r.acc + r.cs, cs := r.cs, qc := r.qc - 1, z := r.z + 1 } := by
  rw [unaryZero, if_neg (by omega)]

theorem unaryZero_z (r : UnaryRegs) : (unaryZero r).z = r.z + 1 := by
  rw [unaryZero]
  split_ifs <;> rfl

/-- Settles O28: by whether the count runs out. -/
theorem unaryBitsStep : Obligations.UnaryBitsStep := by
  refine ⟨fun s c r hwork hqc => ?_, fun s c r hwork hqc => ?_, fun s c r hwork => exec_unaryStop hwork⟩
  · rw [exec_unaryZero hwork, unaryZero_of_seventh hqc]
  · rw [exec_unaryZero hwork, unaryZero_of_before hqc]

/-- Settles O29: each case is R147's common form at its index. -/
theorem predictorCasesUpdate : Obligations.PredictorCasesUpdate := by
  intro s c d hwork after
  have hcase : ∀ {update : Five → Word → Five} {k : Nat}, (∀ o d, update o d = fiveOf (predOf k o d)) →
      predictorStep update s = .next (after k) := by
    intro update k hupdate
    rw [predictorStep_eq hwork, hupdate]
  exact ⟨hcase predictK0_eq, hcase predictK1_eq, hcase predictK2_eq, hcase predictK3_eq, hcase predictK4_eq⟩

/-! ## The steps inside a sample -/

theorem step_unary_capped {r : UnaryRegs} (h : s.work = .unary c r) (hz : s.params.unaryCap ≤ r.z) :
    step s = .next (sampleFails c s) := by
  simp only [step, h, unaryStep, if_pos hz]

/-- Below the cap the step reads the next bit and runs what it decodes to. -/
theorem step_unary {r : UnaryRegs} (h : s.work = .unary c r) (hz : r.z < s.params.unaryCap) (hreader : s.readerOk = true) :
    step s = exec (decodeUnaryBit (bitAt s.inMem s.br s.br.pos)) { s with br := readOn s.br 1 } := by
  simp only [step, h, unaryStep, if_neg (not_le.2 hz), if_pos hreader, readBit_eq]

theorem step_predict {d : Word} (h : s.work = .predict c d) {i : Instr}
    (hi : decodePredIndex (BitVec.ofNat 3 (energyIndex (s.chan c).e)) = .ok i) : step s = exec i s := by
  have hstep : step s = predictStep c s := by rw [step, h]
  rw [hstep]
  unfold predictStep
  split
  next j hj => exact congrArg (exec · s) (Except.ok.inj (hj.symm.trans hi))
  next hj => exact absurd (hj.symm.trans hi) nofun

/-- Settles O13: the bit at the position decides, and the least index is the scan's. -/
theorem stepRunsSampleSymbols : Obligations.StepRunsSampleSymbols := by
  constructor
  · intro s c r hwork hz hreader
    exact step_unary hwork hz hreader
  · intro s c d k i hwork hk hi
    exact step_predict hwork (by rwa [energyIndex_eq hk])

theorem step_range_collapse {r : UnaryRegs} {br : BitReader} (h : s.work = .range c r) (hreader : s.readerOk = true)
    (hrange : rangeDecode s.inMem (s.chan c).rv (s.chan c).ba r s.br = (none, br)) :
    step s = .next (sampleFails c { s with br := br }) := by
  simp only [step, h, rangeStep, if_pos hreader, hrange]

theorem step_range {r : UnaryRegs} {out : RangeOut} {br : BitReader} (h : s.work = .range c r) (hreader : s.readerOk = true)
    (hrange : rangeDecode s.inMem (s.chan c).rv (s.chan c).ba r s.br = (some out, br)) :
    step s = .next { s.setChan c { s.chan c with rv := out.rv, ba := out.ba } with
      br := br, work := .predict c out.d } := by
  simp only [step, h, rangeStep, if_pos hreader, hrange]

/-- The decoder's predictor case for an index runs the update of R134's table. -/
theorem exec_decodePredIndex {k : Nat} (hk : k < 5) :
    ∃ i, decodePredIndex (BitVec.ofNat 3 k) = .ok i ∧ ∀ s, exec i s = predictorStep (predict k) s := by
  interval_cases k
  · exact ⟨.predK0, rfl, fun _ => rfl⟩
  · exact ⟨.predK1, rfl, fun _ => rfl⟩
  · exact ⟨.predK2, rfl, fun _ => rfl⟩
  · exact ⟨.predK3, rfl, fun _ => rfl⟩
  · exact ⟨.predK4, rfl, fun _ => rfl⟩

/-! ## A sample in progress -/

/-- The state inside a CH_DECODE_SAMPLE of channel `c` begun in `s`: what its steps change before they end is the channel,
the reader and the place. -/
def State.inSample (s : State) (c : Chan) (ch : Channel) (br : BitReader) (w : Work) : State :=
  { s.beginCommand.setChan c ch with br := br, work := w }

section
variable (s : State) (c : Chan) (ch : Channel) (br : BitReader) (w : Work)

@[simp] theorem State.inSample_chan : (s.inSample c ch br w).chan c = ch := by cases c <;> rfl

@[simp] theorem State.inSample_params : (s.inSample c ch br w).params = s.params := by cases c <;> rfl

@[simp] theorem State.inSample_br : (s.inSample c ch br w).br = br := rfl

@[simp] theorem State.inSample_inMem : (s.inSample c ch br w).inMem = s.inMem := by cases c <;> rfl

@[simp] theorem State.inSample_setChan (ch' : Channel) :
    (s.inSample c ch br w).setChan c ch' = s.inSample c ch' br w := by cases c <;> rfl

theorem State.inSample_readerOk : (s.inSample c ch br w).readerOk = State.readerOk { s with br := br } := by
  cases c <;> rfl

/-- R133: the failure of a sample in progress. -/
theorem sampleFails_inSample : sampleFails c (s.inSample c ch br w) =
    { s.sampleEnd c (failSample ch br) with work := .none } := by
  cases c <;> rfl

end

variable {ch : Channel} {br br' : BitReader} {r : UnaryRegs}

theorem step_inSample_capped (h : s.params.unaryCap ≤ r.z) :
    step (s.inSample c ch br (.unary c r)) =
      .next { s.sampleEnd c (failSample ch br) with work := .none } := by
  rw [← sampleFails_inSample s c ch br (.unary c r)]
  exact step_unary_capped rfl (by rwa [State.inSample_params])

/-- Below the cap a 0 bit stays in the loop and a 1 bit leaves it (R148, R149). -/
theorem step_inSample_unary (hz : r.z < s.params.unaryCap) (hreader : State.readerOk { s with br := br } = true) :
    step (s.inSample c ch br (.unary c r)) =
      .next (s.inSample c ch (readOn br 1)
        (if bitAt s.inMem br br.pos then .range c r else .unary c (unaryZero r))) := by
  have hstep := step_unary (s := s.inSample c ch br (.unary c r)) rfl (by rwa [State.inSample_params])
    (by rwa [State.inSample_readerOk])
  have hbits : bitAt (s.inSample c ch br (.unary c r)).inMem (s.inSample c ch br (.unary c r)).br
      (s.inSample c ch br (.unary c r)).br.pos = bitAt s.inMem br br.pos := by
    rw [State.inSample_inMem, State.inSample_br]
  rw [hstep, hbits]
  cases bitAt s.inMem br br.pos with
  | true => exact exec_unaryStop rfl
  | false => exact exec_unaryZero rfl

theorem step_inSample_collapse (hreader : State.readerOk { s with br := br } = true)
    (hrange : rangeDecode s.inMem ch.rv ch.ba r br = (none, br')) :
    step (s.inSample c ch br (.range c r)) =
      .next { s.sampleEnd c (failSample ch br') with work := .none } := by
  rw [← sampleFails_inSample s c ch br' (.range c r)]
  exact step_range_collapse rfl (by rwa [State.inSample_readerOk]) (by simpa using hrange)

theorem step_inSample_range (hreader : State.readerOk { s with br := br } = true) {out : RangeOut}
    (hrange : rangeDecode s.inMem ch.rv ch.ba r br = (some out, br')) :
    step (s.inSample c ch br (.range c r)) =
      .next (s.inSample c { ch with rv := out.rv, ba := out.ba } br' (.predict c out.d)) := by
  rw [step_range rfl (by rwa [State.inSample_readerOk]) (by simpa using hrange), State.inSample_chan,
    State.inSample_setChan]
  rfl

/-- The predictor step updates the registers by the case of the energy index (R134). -/
theorem step_inSample_predict {d : Word} :
    step (s.inSample c ch br (.predict c d)) =
      .next (s.inSample c { ch with s := predict (energyIndex ch.e) ch.s d } br (.emit c)) := by
  obtain ⟨i, hi, hexec⟩ := exec_decodePredIndex (energyIndexIsLeastMinimum ch.e).1
  rw [step_predict rfl (by rwa [State.inSample_chan]), hexec, predictorStep_eq rfl, State.inSample_chan,
    State.inSample_setChan]
  rfl

/-- The end of the sample and of the command (R145, R146, R152). -/
theorem step_inSample_emit :
    step (s.inSample c ch br (.emit c)) =
      .next { s.setChan c { ch with e := energyUpdate ch.e ch.s } with
        br := br, work := .none, result := sampleResult (emitSample ch.s), status := doneStatus s.status } := by
  have hstep : step (s.inSample c ch br (.emit c)) = .next (emitStep c (s.inSample c ch br (.emit c))) := rfl
  rw [hstep, emitStep, State.inSample_chan, State.inSample_setChan]
  cases c <;> rfl

/-! ## The run of a sample -/

/-- Some number of steps leads from one state to the other. -/
def Reaches (s t : State) : Prop := ∃ n, Host.Core.run core n s = .next t

theorem Reaches.refl (s : State) : Reaches s s := ⟨0, rfl⟩

theorem Reaches.head (h : step s = .next t) (ht : Reaches t u) : Reaches s u := by
  obtain ⟨n, hn⟩ := ht
  exact ⟨n + 1, (run_succ n h).trans hn⟩

/-- After the unary loop, the steps end as the sample does after its range steps (R126 to R146). -/
theorem reaches_sampleEnd_of_range (hreader : State.readerOk { s with br := br } = true) :
    Reaches (s.inSample c ch br (.range c r))
      { s.sampleEnd c (afterRange ch (rangeDecode s.inMem ch.rv ch.ba r br)) with work := .none } := by
  rcases hrange : rangeDecode s.inMem ch.rv ch.ba r br with ⟨_ | out, br'⟩
  · exact .head (step_inSample_collapse hreader hrange) (.refl _)
  · refine .head (step_inSample_range hreader hrange) (.head step_inSample_predict (.head step_inSample_emit ?_))
    simp only [afterRange, State.sampleEnd, completeSample]
    exact .refl _

/-- From the unary loop with `n` bits left to the cap, the steps end as the sample does (R124, R125). -/
theorem reaches_sampleEnd {n : Nat} (hreader : State.readerOk { s with br := br } = true)
    (hn : r.z + n = s.params.unaryCap) :
    Reaches (s.inSample c ch br (.unary c r))
      { s.sampleEnd c (afterUnary s.inMem ch (unaryLoop s.inMem n r br)) with work := .none } := by
  induction n generalizing r br with
  | zero => exact .head (step_inSample_capped (by omega)) (.refl _)
  | succ n ih =>
    refine .head (step_inSample_unary (by omega) hreader) ?_
    have hnext : State.readerOk { s with br := readOn br 1 } = true := hreader
    cases hbit : bitAt s.inMem br br.pos with
    | true =>
      rw [unaryLoop_of_stop hbit]
      exact reaches_sampleEnd_of_range hnext
    | false =>
      rw [unaryLoop_of_zero hbit]
      exact ih hnext (by rw [unaryZero_z]; omega)

/-- Settles O30: the command and its steps end the same sample, and between commands there is no place inside one. -/
theorem sampleStepsAgreeWithCommand : Obligations.SampleStepsAgreeWithCommand := by
  intro s op c hwork hop hlive hreader
  have hstart : { s.beginCommand with work := .unary c (unaryStart (s.chan c).e) } =
      s.inSample c (s.chan c) s.br (.unary c (unaryStart (s.chan c).e)) := by
    cases c <;> rfl
  have hend : ∀ out, { s.sampleEnd c out with work := .none } = s.sampleEnd c out := by
    rintro ⟨br, ch, _ | v⟩ <;> simp only [State.sampleEnd, State.setChan_work, ← hwork]
  obtain ⟨n, hrun⟩ := reaches_sampleEnd (c := c) (ch := s.chan c) (r := unaryStart (s.chan c).e) hreader
    (Nat.zero_add s.params.unaryCap)
  rw [← hstart, ← sample_of_live hlive, hend] at hrun
  exact ⟨n, _, exec_chDecodeSample hop (.inr hreader), hrun⟩

end Sys2Proof.Machine
end

section
/-! PROOFS. 42_dwop_stream.md R160 to R169 and 60_exceptions.md R259: the loops of a stream end where its run does, with OUT
written frame by frame, and what DECODE_MONO and DECODE_STEREO answer. -/

namespace Sys2Proof.Machine

open Sys2Proof.Claims

variable {s : State}

/-! ## Samples stored to OUT in order (R169) -/

/-- OUT after samples are stored one after the other from slot `a`. -/
def storeSamples (m : Memory 16) (a : Nat) : List Sample → Memory 16
  | [] => m
  | v :: rest => storeSamples (memWrite m a v) (a + 1) rest

theorem read_storeSamples_below (m : Memory 16) {a i : Nat} (h : i < a) (l : List Sample) :
    Memory.read (storeSamples m a l) i = Memory.read m i := by
  induction l generalizing m a with
  | nil => rfl
  | cons v rest ih =>
    calc Memory.read (storeSamples (memWrite m a v) (a + 1) rest) i
      _ = Memory.read (memWrite m a v) i := ih _ (by omega)
      _ = Memory.read m i := Memory.read_write_other m v (by omega)

theorem read_storeSamples {m : Memory 16} (hm : Memory.wf m) (a i : Nat) (l : List Sample) :
    Memory.read (storeSamples m a l) (a + i) = (l[i]?).getD (Memory.read m (a + i)) := by
  induction l generalizing m a i with
  | nil => rfl
  | cons v rest ih =>
    rw [storeSamples]
    cases i with
    | zero => rw [Nat.add_zero, read_storeSamples_below _ (by omega)]; exact Memory.read_write_same hm a v
    | succ i =>
      rw [show a + (i + 1) = a + 1 + i by omega, ih (memWrite_wf hm a v), List.getElem?_cons_succ, memWrite,
        Memory.read_write_other m v (by omega)]

theorem holdsMono_storeSamples {m : Memory 16} (hm : Memory.wf m) (l : List Sample) :
    HoldsMono m (storeSamples m 0 l) l := by
  intro i
  have hread := read_storeSamples hm 0 i l
  rwa [Nat.zero_add] at hread

/-! ## Frames interleaved (R167) -/

/-- The samples of stereo frames in the order of OUT: each left sample, then left plus delta. -/
def interleave : List (Sample × Sample) → List Sample
  | [] => []
  | f :: rest => f.1 :: (f.1 + f.2) :: interleave rest

theorem interleave_getElem? (l : List (Sample × Sample)) (i : Nat) :
    (interleave l)[i]? = (l[i / 2]?).map fun f => if i % 2 = 0 then f.1 else f.1 + f.2 := by
  induction l generalizing i with
  | nil => rfl
  | cons f rest ih =>
    match i with
    | 0 => rfl
    | 1 => rfl
    | i + 2 =>
      rw [interleave, List.getElem?_cons_succ, List.getElem?_cons_succ, ih, Nat.add_div_right i two_pos,
        Nat.add_mod_right, List.getElem?_cons_succ]

theorem holdsStereo_storeSamples {m : Memory 16} (hm : Memory.wf m) (l : List (Sample × Sample)) :
    HoldsStereo m (storeSamples m 0 (interleave l)) l := by
  intro i
  rw [holdsMono_storeSamples hm (interleave l) i, interleave_getElem?]
  cases l[i / 2]? <;> rfl

theorem rightSample_eq (l dl : Sample) : rightSample l dl = l + dl := by
  rw [rightSample, BitVec.ofInt_add, BitVec.ofInt_toInt, BitVec.ofInt_toInt]

/-! ## The loops end where the runs do (R161, R162, R166) -/

theorem monoLoop_eq (m : Memory 8) (cap k n : Nat) (r : StreamRegs) :
    monoLoop m cap k n r =
      (n + (monoRun m cap k r.br r.ch0).1.length,
        { br := (monoRun m cap k r.br r.ch0).2.1, ch0 := (monoRun m cap k r.br r.ch0).2.2, ch1 := r.ch1
          out := storeSamples r.out n (monoRun m cap k r.br r.ch0).1 }) := by
  induction k generalizing n r with
  | zero => rfl
  | succ k ih =>
    rw [monoLoop, monoRun]
    rcases sample m cap r.ch0 r.br with ⟨br, ch, _ | v⟩
    · rfl
    · simp only [ih, storeSamples, List.length_cons, Nat.add_assoc, Nat.add_comm 1]

theorem stereoLoop_eq (m : Memory 8) (cap k n : Nat) (r : StreamRegs) :
    stereoLoop m cap k n r =
      (n + (stereoRun m cap k r.br r.ch0 r.ch1).1.length,
        { br := (stereoRun m cap k r.br r.ch0 r.ch1).2.1, ch0 := (stereoRun m cap k r.br r.ch0 r.ch1).2.2.1
          ch1 := (stereoRun m cap k r.br r.ch0 r.ch1).2.2.2
          out := storeSamples r.out (2 * n) (interleave (stereoRun m cap k r.br r.ch0 r.ch1).1) }) := by
  induction k generalizing n r with
  | zero => rfl
  | succ k ih =>
    rw [stereoLoop, stereoRun]
    rcases sample m cap r.ch0 r.br with ⟨br, ch0, _ | l⟩
    · rfl
    · dsimp only
      rcases sample m cap r.ch1 br with ⟨br', ch1, _ | dl⟩
      · rfl
      · simp only [ih, interleave, storeSamples, rightSample_eq, List.length_cons, Nat.mul_add, Nat.add_assoc,
          Nat.add_comm 1]

/-! ## A stream (R160, R163) -/

/-- What a stream of `n` frames leaves when its loop counted `count` and left `r`. -/
def State.streamEnd (s : State) (n count : Nat) (r : StreamRegs) : State :=
  { s with
    br := r.br, ch0 := r.ch0, ch1 := r.ch1, outMem := r.out
    status := { s.status with short := s.status.short || decide (count < n) } }

theorem State.streamEnd_eq (n count : Nat) (r : StreamRegs) :
    (if count < n then State.setShort { s with br := r.br, ch0 := r.ch0, ch1 := r.ch1, outMem := r.out }
      else { s with br := r.br, ch0 := r.ch0, ch1 := r.ch1, outMem := r.out }) = s.streamEnd n count r := by
  split_ifs with h <;> simp only [State.setShort, State.streamEnd, h, decide_true, decide_false, Bool.or_true, Bool.or_false]

/-- What the run of a mono stream leaves in the registers of the loop. -/
def monoEnd (s : State) (run : List Sample × BitReader × Channel) : StreamRegs where
  br := run.2.1
  ch0 := run.2.2
  ch1 := Channel.initial
  out := storeSamples s.outMem 0 run.1

/-- What the run of a stereo stream leaves in the registers of the loop. -/
def stereoEnd (s : State) (run : List (Sample × Sample) × BitReader × Channel × Channel) : StreamRegs where
  br := run.2.1
  ch0 := run.2.2.1
  ch1 := run.2.2.2
  out := storeSamples s.outMem 0 (interleave run.1)

theorem stream_mono (s : State) (off len n : Nat) :
    stream s off len 1 n =
      ((monoOf s off len n).1.length,
        s.streamEnd n (monoOf s off len n).1.length (monoEnd s (monoOf s off len n))) := by
  rw [stream, if_pos rfl, monoLoop_eq, ← State.streamEnd_eq, Nat.zero_add]
  rfl

theorem stream_stereo (s : State) (off len n : Nat) :
    stream s off len 2 n =
      ((stereoOf s off len n).1.length,
        s.streamEnd n (stereoOf s off len n).1.length (stereoEnd s (stereoOf s off len n))) := by
  rw [stream, if_neg (by decide), stereoLoop_eq, ← State.streamEnd_eq, Nat.zero_add]
  rfl

theorem monoOf_length_le (s : State) (off len n : Nat) : (monoOf s off len n).1.length ≤ n := by
  have hcount := (stream_cases s off len 1 n).1
  rwa [stream_mono] at hcount

theorem stereoOf_length_le (s : State) (off len n : Nat) : (stereoOf s off len n).1.length ≤ n := by
  have hcount := (stream_cases s off len 2 n).1
  rwa [stream_stereo] at hcount

/-! ## The decode commands (R164, R165, R259) -/

/-- A decode command's body whose checks pass: its stream, and the count in `RESULT`. -/
theorem decodeBody_inside {ch count : Nat} {t : State} (hok : (s.argSliceOk && s.argFramesOk ch) = true)
    (hstream : stream s.release.clearFlags s.argOff.toNat s.argLen.toNat ch s.argN.toNat = (count, t)) :
    decodeBody ch s = .ok { t with result := BitVec.ofNat 32 count } := by
  have hbody : decodeBody ch s =
      .ok { (stream s.release.clearFlags s.argOff.toNat s.argLen.toNat ch s.argN.toNat).2 with
        result := BitVec.ofNat 32 (stream s.release.clearFlags s.argOff.toNat s.argLen.toNat ch s.argN.toNat).1 } :=
    if_pos hok
  rw [hbody, hstream]

theorem endCommand_decodeBody_inside {ch count : Nat} {r : StreamRegs}
    (hlen : s.inLen.toNat ≤ s.params.inSize) (hslice : s.argOff.toNat + s.argLen.toNat ≤ s.inLen.toNat)
    (hframes : ch * s.argN.toNat ≤ s.params.outSize)
    (hstream : stream s.beginCommand.release.clearFlags s.argOff.toNat s.argLen.toNat ch s.argN.toNat =
      (count, s.beginCommand.release.clearFlags.streamEnd s.argN.toNat count r)) :
    endCommand (decodeBody ch s.beginCommand) = { s.release with
      status := { state := .done, trunc := false, short := decide (count < s.argN.toNat), decoded := false, err := 0 }
      result := BitVec.ofNat 32 count, br := r.br, ch0 := r.ch0, ch1 := r.ch1, outMem := r.out } := by
  have hok : (s.argSliceOk && s.argFramesOk ch) = true :=
    Bool.and_eq_true_iff.2 ⟨State.argSliceOk_iff.2 ⟨hlen, hslice⟩, (State.argFramesOk_iff ch).2 hframes⟩
  rw [decodeBody_inside (s := s.beginCommand) hok hstream, endCommand_ok]
  rfl

theorem endCommand_decodeBody_outside {ch : Nat}
    (h : s.params.inSize < s.inLen.toNat ∨ s.inLen.toNat < s.argOff.toNat + s.argLen.toNat ∨
      s.params.outSize < ch * s.argN.toNat) :
    endCommand (decodeBody ch s.beginCommand) = { s.release with status := clearError 9 } := by
  have hbad : ¬ (s.argSliceOk && s.argFramesOk ch) = true := by
    rw [Bool.and_eq_true_iff, State.argSliceOk_iff, State.argFramesOk_iff]
    omega
  have hbody : decodeBody ch s.beginCommand = .raised .badArgument s.beginCommand.release.clearFlags := if_neg hbad
  rw [hbody]
  rfl

/-- Settles O33: a failing check of the arguments raises from the released state. -/
theorem decodeBadArguments : Obligations.DecodeBadArguments := by
  intro s
  constructor
  · intro h
    exact congrArg Host.Outcome.next (endCommand_decodeBody_outside (by rwa [Nat.one_mul]))
  · intro h
    exact congrArg Host.Outcome.next (endCommand_decodeBody_outside h)

/-- Settles O31: the mono loop ends where the mono run does, its samples stored from slot 0. -/
theorem decodeMonoWritesRun : Obligations.DecodeMonoWritesRun := by
  intro s hlen hslice hframes hwf run
  have hend := endCommand_decodeBody_inside hlen hslice (by rwa [Nat.one_mul]) (stream_mono _ _ _ _)
  exact ⟨storeSamples s.outMem 0 run.1, congrArg Host.Outcome.next hend, holdsMono_storeSamples hwf run.1,
    monoOf_length_le s _ _ _⟩

/-- Settles O32: the stereo loop ends where the stereo run does, its frames stored interleaved from slot 0. -/
theorem decodeStereoWritesRun : Obligations.DecodeStereoWritesRun := by
  intro s hlen hslice hframes hwf run
  have hend := endCommand_decodeBody_inside hlen hslice hframes (stream_stereo _ _ _ _)
  exact ⟨storeSamples s.outMem 0 (interleave run.1), congrArg Host.Outcome.next hend,
    holdsStereo_storeSamples hwf run.1, stereoOf_length_le s _ _ _⟩

end Sys2Proof.Machine
end

section
/-! PROOFS. 20_memory.md R63 and 43_iff_parser.md R192 to R201: IN read big-endian, and what the four chunks that store
fields answer. -/

namespace Sys2Proof.Machine

open Sys2Proof.Claims

variable {s : State}

/-! ## Big-endian numbers of IN (R63) -/

/-- A word shifted left above another: the weighted sum, when nothing is lost. -/
theorem toNat_shiftLeft_or {x y : Word} {k : Nat} (hy : y.toNat < 2 ^ k) (hx : x.toNat * 2 ^ k < 2 ^ 32) :
    (x <<< k ||| y).toNat = x.toNat * 2 ^ k + y.toNat := by
  rw [BitVec.toNat_or, BitVec.toNat_shiftLeft, Nat.shiftLeft_eq, Nat.mod_eq_of_lt hx, ← Nat.shiftLeft_eq,
    ← Nat.shiftLeft_add_eq_or_of_lt hy]

theorem toNat_memRead_one (s : State) (a : Nat) : (memRead s.inMem a 1).toNat = byteAt s a := by
  rw [memRead_one, BitVec.toNat_setWidth]
  exact Nat.mod_eq_of_lt ((Memory.read s.inMem a).isLt.trans (by decide))

theorem toNat_memRead_succ (s : State) (a : Nat) {n : Nat} (hn : n < 4) :
    (memRead s.inMem a (n + 1)).toNat = (memRead s.inMem a n).toNat * 2 ^ 8 + byteAt s (a + n) := by
  have hbyte : ((Memory.read s.inMem (a + n)).setWidth 32).toNat = byteAt s (a + n) := by
    rw [← memRead_one, toNat_memRead_one]
  have hfits : (memRead s.inMem a n).toNat * 2 ^ 8 < 2 ^ 32 :=
    calc (memRead s.inMem a n).toNat * 2 ^ 8
        < 2 ^ (8 * n) * 2 ^ 8 := Nat.mul_lt_mul_of_pos_right (memRead_lt _ _ n) (by decide)
      _ = 2 ^ (8 * n + 8) := (pow_add 2 (8 * n) 8).symm
      _ ≤ 2 ^ 32 := Nat.pow_le_pow_right (by decide) (by omega)
  rw [memRead, toNat_shiftLeft_or _ hfits, hbyte]
  rw [hbyte]
  exact (Memory.read s.inMem (a + n)).isLt

theorem toNat_memRead_two (s : State) (a : Nat) : (memRead s.inMem a 2).toNat = half s a := by
  rw [toNat_memRead_succ s a (by decide), toNat_memRead_one, half]
  omega

theorem toNat_memRead_four (s : State) (a : Nat) : (memRead s.inMem a 4).toNat = quad s a := by
  have hlast : a + 2 + 1 = a + 3 := rfl
  rw [toNat_memRead_succ s a (by decide), toNat_memRead_succ s a (by decide), toNat_memRead_two, quad, half, half,
    hlast]
  omega

theorem memRead_one_eq (s : State) (a : Nat) : memRead s.inMem a 1 = BitVec.ofNat 32 (byteAt s a) := by
  rw [← toNat_memRead_one, BitVec.ofNat_toNat, BitVec.setWidth_eq]

theorem memRead_two_eq (s : State) (a : Nat) : memRead s.inMem a 2 = BitVec.ofNat 32 (half s a) := by
  rw [← toNat_memRead_two, BitVec.ofNat_toNat, BitVec.setWidth_eq]

theorem memRead_four_eq (s : State) (a : Nat) : memRead s.inMem a 4 = BitVec.ofNat 32 (quad s a) := by
  rw [← toNat_memRead_four, BitVec.ofNat_toNat, BitVec.setWidth_eq]

theorem toNat_ofNat_quad (s : State) (a : Nat) : (BitVec.ofNat 32 (quad s a)).toNat = quad s a := by
  rw [← memRead_four_eq, toNat_memRead_four]

/-- A byte stored above the low bits of a register, as `BARS_BEATS` and `TIMESIG` are packed (R193). -/
theorem or_memRead_one_shiftLeft (s : State) {x : Word} {k : Nat} (hx : x.toNat < 2 ^ k) (hk : k ≤ 24) (a : Nat) :
    x ||| (memRead s.inMem a 1 <<< k) = BitVec.ofNat 32 (x.toNat + 2 ^ k * byteAt s a) := by
  have hfits : (memRead s.inMem a 1).toNat * 2 ^ k < 2 ^ 32 :=
    calc (memRead s.inMem a 1).toNat * 2 ^ k
        < 2 ^ 8 * 2 ^ k := Nat.mul_lt_mul_of_pos_right (memRead_lt _ _ 1) (Nat.two_pow_pos k)
      _ = 2 ^ (8 + k) := (pow_add 2 8 k).symm
      _ ≤ 2 ^ 32 := Nat.pow_le_pow_right (by decide) (by omega)
  have hsum := toNat_shiftLeft_or hx hfits
  rw [toNat_memRead_one, Nat.mul_comm, Nat.add_comm] at hsum
  rw [BitVec.or_comm, ← hsum, BitVec.ofNat_toNat, BitVec.setWidth_eq]

/-! ## The four chunks that store fields -/

/-- A chunk instruction at a chunk runs its handler on the payload (R180). -/
theorem withPayload_of_atChunk {len : Word} {pl : Nat} (h : AtChunk s len pl) (handler : Nat → State) :
    withPayload len s handler = .next (handler pl) := by
  obtain ⟨⟨l, rest, hwalker, rfl⟩, hin⟩ := h
  exact withPayload_next.2 ⟨l, rest, hwalker, hin, rfl⟩

section
variable {len : Word} {pl : Nat} (h : AtChunk s len pl)
include h

theorem exec_glob : exec (.glob len) s = .next (globStep pl len s) := withPayload_of_atChunk h _

theorem exec_head : exec (.head len) s = .next (headStep pl len s) := withPayload_of_atChunk h _

theorem exec_sinf : exec (.sinf len) s = .next (sinfStep pl len s) := withPayload_of_atChunk h _

theorem exec_slce : exec (.slce len) s = .next (slceStep pl len s) := withPayload_of_atChunk h _

theorem exec_cat : exec (.cat len) s = .next (afterHandler (catStep pl len s)) := withPayload_of_atChunk h _

theorem exec_sdat : exec (.sdat len) s = .next (afterHandler (sdatStep pl len s)) := withPayload_of_atChunk h _

end

variable {len : Word}

theorem globStep_short (h : len.toNat < 20) (pl : Nat) : globStep pl len s = s := if_pos h

theorem globStep_long (h : 20 ≤ len.toNat) (pl : Nat) : globStep pl len s = { s with
    barsBeats := BitVec.ofNat 32 (half s (pl + 4) + 65536 * byteAt s (pl + 6))
    timesig := BitVec.ofNat 32 (byteAt s (pl + 7) + 256 * byteAt s (pl + 8))
    tempoMbpm := BitVec.ofNat 32 (quad s (pl + 16)) } := by
  have hbars : memRead s.inMem (pl + 4) 2 ||| (memRead s.inMem (pl + 6) 1 <<< 16) =
      BitVec.ofNat 32 (half s (pl + 4) + 65536 * byteAt s (pl + 6)) := by
    rw [← toNat_memRead_two]
    exact or_memRead_one_shiftLeft s (k := 16) (memRead_lt _ _ 2) (by decide) _
  have htime : memRead s.inMem (pl + 7) 1 ||| (memRead s.inMem (pl + 8) 1 <<< 8) =
      BitVec.ofNat 32 (byteAt s (pl + 7) + 256 * byteAt s (pl + 8)) := by
    rw [← toNat_memRead_one s (pl + 7)]
    exact or_memRead_one_shiftLeft s (k := 8) (memRead_lt _ _ 1) (by decide) _
  rw [globStep, if_neg (not_lt.2 h), hbars, htime, memRead_four_eq]

theorem headStep_short (h : len.toNat < 6) (pl : Nat) : headStep pl len s = s := if_pos h

theorem headStep_long (h : 6 ≤ len.toNat) (pl : Nat) :
    headStep pl len s = { s with bytesPerSample := BitVec.ofNat 32 (byteAt s (pl + 5)) } := by
  rw [headStep, if_neg (not_lt.2 h), memRead_one_eq]

theorem sinfStep_short (h : len.toNat < 10) (pl : Nat) : sinfStep pl len s = s := if_pos h

theorem sinfStep_long (h : 10 ≤ len.toNat) (pl : Nat) : sinfStep pl len s = { s with
    channels := BitVec.ofNat 32 (byteAt s pl)
    sampleRate := if half s (pl + 4) = 0 then s.sampleRate else BitVec.ofNat 32 (half s (pl + 4))
    totalFrames := BitVec.ofNat 32 (quad s (pl + 6)) } := by
  have hrate : BitVec.ofNat 32 (half s (pl + 4)) = 0 ↔ half s (pl + 4) = 0 := by
    rw [← memRead_two_eq, ← toNat_memRead_two, BitVec.toNat_eq]
    rfl
  simp only [sinfStep, if_neg (not_lt.2 h), memRead_one_eq, memRead_two_eq, memRead_four_eq, hrate]

theorem slceStep_skips {pl : Nat} (h : len.toNat < 8 ∨ quad s (pl + 4) ≤ 1 ∨ s.params.maxSlices ≤ s.slices.length) :
    slceStep pl len s = s := by
  unfold slceStep
  dsimp only
  rw [toNat_memRead_four]
  split_ifs
  case neg => omega
  all_goals rfl

theorem slceStep_stores {pl : Nat} (hlen : 8 ≤ len.toNat) (hslice : 2 ≤ quad s (pl + 4))
    (hroom : s.slices.length < s.params.maxSlices) : slceStep pl len s = { s with
      slices := s.slices ++ [{ off := BitVec.ofNat 32 (quad s pl), len := BitVec.ofNat 32 (quad s (pl + 4)) }] } := by
  unfold slceStep
  dsimp only
  rw [toNat_memRead_four, if_neg (not_lt.2 hlen), if_neg (by omega), if_neg (not_le.2 hroom), memRead_four_eq,
    memRead_four_eq]

/-- Settles O34: both sides of GLOB's minimum, its packed registers as weighted sums. -/
theorem globStoresFields : Obligations.GlobStoresFields := by
  intro s len pl hat
  refine ⟨rfl, fun hlen => ?_, fun hlen => ?_⟩ <;> rw [exec_glob hat]
  · rw [globStep_long hlen]
  · rw [globStep_short hlen]

/-- Settles O35: both sides of HEAD's minimum. -/
theorem headStoresField : Obligations.HeadStoresField := by
  intro s len pl hat
  refine ⟨rfl, fun hlen => ?_, fun hlen => ?_⟩ <;> rw [exec_head hat]
  · rw [headStep_long hlen]
  · rw [headStep_short hlen]

/-- Settles O36: both sides of SINF's minimum, and of its test of the sample rate. -/
theorem sinfStoresFields : Obligations.SinfStoresFields := by
  intro s len pl hat
  refine ⟨rfl, fun hlen hrate => ?_, fun hlen hrate => ?_, fun hlen => ?_⟩ <;> rw [exec_sinf hat]
  · rw [sinfStep_long hlen, if_neg hrate]
  · rw [sinfStep_long hlen, if_pos hrate]
  · rw [sinfStep_short hlen]

/-- Settles O37: the slice is appended when SLCE's three tests pass, and nothing changes when one fails. -/
theorem slceAppendsSlice : Obligations.SlceAppendsSlice := by
  intro s len pl hat
  refine ⟨rfl, fun hlen hslice hroom => ?_, fun hskip => ?_⟩ <;> rw [exec_slce hat]
  · rw [slceStep_stores hlen hslice hroom]
  · rw [slceStep_skips hskip]

end Sys2Proof.Machine
end

section
/-! PROOFS. 43_iff_parser.md R180 to R191 and R203: the passes of PARSE's walk as steps, and a container's nested level,
walked in one instruction or step by step. -/

namespace Sys2Proof.Machine

open Sys2Proof.Claims

variable {s t : State} {l : Level} {rest : List Level} {tag len : Word}

/-! ## The header at a level's cursor (R181 to R183) -/

theorem headerAt_of_levelEnds (h : l.stop < l.pos + 8) : s.headerAt l = .levelEnds := if_pos h

theorem headerAt_of_truncated (hroom : l.pos + 8 ≤ l.stop) (h : l.stop < l.pos + 8 + quad s (l.pos + 4)) :
    s.headerAt l = .truncated := by
  rw [← toNat_memRead_four] at h
  rw [State.headerAt, if_neg (not_lt.2 hroom)]
  exact if_pos h

theorem headerAt_of_fits (h : l.pos + 8 + quad s (l.pos + 4) ≤ l.stop) :
    s.headerAt l = .chunk (BitVec.ofNat 32 (quad s l.pos)) (BitVec.ofNat 32 (quad s (l.pos + 4))) := by
  rw [← memRead_four_eq, ← memRead_four_eq]
  rw [← toNat_memRead_four] at h
  rw [State.headerAt, if_neg (by omega)]
  exact if_neg (not_lt.2 h)

theorem bigEndian_four (s : State) (a : Nat) :
    bigEndian [Memory.read s.inMem a, Memory.read s.inMem (a + 1), Memory.read s.inMem (a + 2),
      Memory.read s.inMem (a + 3)] = quad s a := by
  have hlast : a + 2 + 1 = a + 3 := rfl
  simp only [bigEndian, List.length_cons, List.length_nil, quad, half, byteAt, hlast]
  omega

/-- R84: the 8 bytes of a header in IN decode to the instruction of their tag and length. -/
theorem decodeHeaderBytes_eq (s : State) (a : Nat) :
    decodeHeaderBytes ((List.range 8).map fun j => Memory.read s.inMem (a + j)) =
      .ok (decodeChunk (BitVec.ofNat 32 (quad s a)) (BitVec.ofNat 32 (quad s (a + 4))), []) := by
  rw [← bigEndian_four, ← bigEndian_four]
  rfl

/-! ## The steps of the walk (R180) -/

section
variable (hwork : s.work = .walk) (hwalker : s.walker = l :: rest) (hin : l.stop ≤ s.params.inSize)
include hwork hwalker hin

theorem step_of_levelEnds (h : s.headerAt l = .levelEnds) : step s = .next s.popLevel := by
  simp only [step, hwork, walkStep, hwalker, if_neg (not_lt.2 hin), h]

theorem step_of_truncated (h : s.headerAt l = .truncated) : step s = .next s.popLevel.setTrunc := by
  simp only [step, hwork, walkStep, hwalker, if_neg (not_lt.2 hin), h]

theorem step_of_chunk (h : s.headerAt l = .chunk tag len) :
    step s = afterChunk len (exec (decodeChunk tag len) s) := by
  simp only [step, hwork, walkStep, hwalker, if_neg (not_lt.2 hin), h]

end

theorem afterChunk_of_walk (h : t.work = .walk) : afterChunk len (.next t) = .next (t.advance len) :=
  congrArg Host.Outcome.next (if_pos h)

theorem afterChunk_of_ended (h : t.work ≠ .walk) : afterChunk len (.next t) = .next t :=
  congrArg Host.Outcome.next (if_neg h)

theorem State.popLevel_eq (h : s.walker = l :: rest) : s.popLevel = { s with walker := rest } := by
  rw [State.popLevel, h, List.tail_cons]

theorem State.advance_eq (h : s.walker = l :: rest) :
    s.advance len = { s with walker := { pos := l.pos + chunkSize len, stop := l.stop } :: rest } := by
  simp only [State.advance, h]

/-- Settles O12: the header in IN decodes to the chunk that the step executes. -/
theorem stepRunsChunk : Obligations.StepRunsChunk := by
  intro s l rest i len hwork hwalker hin hlen hfits hdecode
  subst hlen
  rw [toNat_ofNat_quad] at hfits
  rw [decodeHeaderBytes_eq] at hdecode
  injection hdecode with hdecode
  injection hdecode with hi
  have hstep := step_of_chunk hwork hwalker hin (headerAt_of_fits hfits)
  rw [hi] at hstep
  refine ⟨fun t hexec ht => ?_, fun t hexec ht => ?_⟩ <;> rw [hstep, hexec]
  · exact afterChunk_of_walk ht
  · exact afterChunk_of_ended ht

/-- Settles O38: the step of an unknown chunk only moves the cursor. -/
theorem unknownChunkSkipped : Obligations.UnknownChunkSkipped := by
  refine ⟨fun _ _ _ => rfl, fun s l rest hwork hwalker hin hfits htag => ?_⟩
  calc step s
      = afterChunk _ (exec (decodeChunk _ _) s) := step_of_chunk hwork hwalker hin (headerAt_of_fits hfits)
    _ = afterChunk _ (.next s) := by rw [decodeChunk_unknown htag]; rfl
    _ = .next (s.advance (BitVec.ofNat 32 (quad s (l.pos + 4)))) := afterChunk_of_walk hwork
    _ = .next { s with walker :=
          { pos := l.pos + 8 + quad s (l.pos + 4) + quad s (l.pos + 4) % 2, stop := l.stop } :: rest } := by
        rw [State.advance_eq hwalker, chunkSize, toNat_ofNat_quad, ← Nat.add_assoc, ← Nat.add_assoc]

/-- Settles O39: the two headers at which a level returns. -/
theorem levelEnds : Obligations.LevelEnds := by
  intro s l rest hwork hwalker hin
  refine ⟨fun hend => ?_, fun hroom htrunc => ?_⟩
  · rw [step_of_levelEnds hwork hwalker hin (headerAt_of_levelEnds hend), State.popLevel_eq hwalker]
  · rw [step_of_truncated hwork hwalker hin (headerAt_of_truncated hroom htrunc), State.popLevel_eq hwalker]
    rfl

/-! ## The fuel of a walk (R190) and the level it closes -/

/-- Fuel above a level's bytes is, one pass later, above the bytes of the level that a container opens. -/
theorem nested_lt_fuel {f : Nat} (hfits : l.pos + 8 + len.toNat ≤ l.stop) (hf : l.stop - l.pos < f + 1) :
    l.pos + 8 + len.toNat - (l.pos + 8 + 4) < f := by omega

/-- Fuel above a level's bytes is, one pass later, above the bytes past the chunk. -/
theorem advanced_lt_fuel {f : Nat} (hfits : l.pos + 8 + len.toNat ≤ l.stop) (hf : l.stop - l.pos < f + 1) :
    l.stop - (l.pos + chunkSize len) < f := by
  unfold chunkSize
  omega

theorem chunkBody_congr {f g pl : Nat}
    (h : 4 ≤ len.toNat →
      walk f (s.pushLevel (pl + 4) (pl + len.toNat)) = walk g (s.pushLevel (pl + 4) (pl + len.toNat))) :
    chunkBody f pl tag len s = chunkBody g pl tag len s := by
  unfold chunkBody
  by_cases hroom : 4 ≤ len.toNat
  · rw [h hroom]
  · rw [if_neg hroom, if_neg hroom]

theorem SameButFields.walker (h : SameButFields s t) : t.walker = s.walker := by rw [h]

theorem sdatStep_ok_walker {pl : Nat} (h : sdatStep pl len s = .ok t) : t.walker = s.walker := by
  unfold sdatStep at h
  split_ifs at h
  · injection h with h
    rw [h]
  · rcases sdatDecode_cases pl len s with ⟨u, hd, hframe⟩ | ⟨e, u, hd, -, -⟩ <;> rw [hd] at h
    · injection h with h
      rw [← h, hframe]
    · cases h

/-- A handler that returns leaves the open levels as they were, when a nested walk does. -/
theorem chunkBody_ok_walker {f pl : Nat}
    (hnested : 4 ≤ len.toNat → walk f (s.pushLevel (pl + 4) (pl + len.toNat)) = .ok t → t.walker = s.walker)
    (h : chunkBody f pl tag len s = .ok t) : t.walker = s.walker := by
  unfold chunkBody at h
  split_ifs at h with _ hroom
  · exact hnested hroom h
  · injection h with h; rw [h]
  · injection h with h; exact h ▸ (globStep_frame pl len s).walker
  · injection h with h; exact h ▸ (headStep_frame pl len s).walker
  · injection h with h; exact h ▸ (sinfStep_frame pl len s).walker
  · injection h with h; exact h ▸ (slceStep_frame pl len s).walker
  · exact sdatStep_ok_walker h
  · injection h with h; rw [h]

/-- A walk that returns has closed its level and no other (R182, R191). -/
theorem walk_ok_walker {f : Nat} (hwalker : s.walker = l :: rest) (hf : l.stop - l.pos < f) (h : walk f s = .ok t) :
    t.walker = rest := by
  induction f generalizing s l rest t with
  | zero => omega
  | succ f ih =>
    cases hh : s.headerAt l with
    | levelEnds =>
      rw [walk_of_levelEnds f hwalker hh, State.popLevel_eq hwalker] at h
      injection h with h
      rw [← h]
    | truncated =>
      rw [walk_of_truncated f hwalker hh, State.popLevel_eq hwalker] at h
      injection h with h
      rw [← h, State.setTrunc_walker]
    | chunk tag len =>
      obtain ⟨hfits, -, -⟩ := headerAt_chunk hh
      cases hb : chunkBody f (l.pos + 8) tag len s with
      | raised e u =>
        rw [walk_of_chunk_raised f hwalker hh hb] at h
        cases h
      | ok u =>
        have hu : u.walker = s.walker :=
          chunkBody_ok_walker (fun _ => ih (s.pushLevel_walker _ _) (nested_lt_fuel hfits hf)) hb
        rw [walk_of_chunk_ok f hwalker hh hb] at h
        exact ih (u.advance_walker len l rest (hu.trans hwalker)) (advanced_lt_fuel hfits hf) h

/-- A chunk's handler that returns leaves its own level innermost (R188). -/
theorem chunkBody_ok_level {f : Nat} (hwalker : s.walker = l :: rest) (hf : l.stop - l.pos < f + 1)
    (hfits : l.pos + 8 + len.toNat ≤ l.stop) (h : chunkBody f (l.pos + 8) tag len s = .ok t) : t.walker = l :: rest :=
  hwalker ▸ chunkBody_ok_walker (fun _ => walk_ok_walker (s.pushLevel_walker _ _) (nested_lt_fuel hfits hf)) h

/-- Fuel above the level's bytes is enough: more does not change the walk (R190). -/
theorem walk_fuel {f g : Nat} (hwalker : s.walker = l :: rest) (hf : l.stop - l.pos < f) (hg : l.stop - l.pos < g) :
    walk f s = walk g s := by
  induction f generalizing s l rest g with
  | zero => omega
  | succ f ih =>
    obtain ⟨g, rfl⟩ : ∃ k, g = k + 1 := ⟨g - 1, by omega⟩
    cases hh : s.headerAt l with
    | levelEnds => rw [walk_of_levelEnds f hwalker hh, walk_of_levelEnds g hwalker hh]
    | truncated => rw [walk_of_truncated f hwalker hh, walk_of_truncated g hwalker hh]
    | chunk tag len =>
      obtain ⟨hfits, -, -⟩ := headerAt_chunk hh
      have hbody : chunkBody f (l.pos + 8) tag len s = chunkBody g (l.pos + 8) tag len s :=
        chunkBody_congr fun _ => ih (s.pushLevel_walker _ _) (nested_lt_fuel hfits hf) (nested_lt_fuel hfits hg)
      cases hb : chunkBody f (l.pos + 8) tag len s with
      | raised e u =>
        rw [walk_of_chunk_raised f hwalker hh hb, walk_of_chunk_raised g hwalker hh (hbody ▸ hb)]
      | ok u =>
        have hu := chunkBody_ok_level hwalker hf hfits hb
        rw [walk_of_chunk_ok f hwalker hh hb, walk_of_chunk_ok g hwalker hh (hbody ▸ hb)]
        exact ih (u.advance_walker len l rest hu) (advanced_lt_fuel hfits hf) (advanced_lt_fuel hfits hg)

/-! ## The walk step by step (log 4) -/

/-- The instruction of the chunk at the cursor does what the walk does with that chunk (R180, R191). -/
theorem exec_decodeChunk {pl : Nat} (hat : AtChunk s len pl) (tag : Word) :
    exec (decodeChunk tag len) s = .next (afterHandler (chunkBody (len.toNat + 1) pl tag len s)) := by
  have hcat : catStep pl len s =
      if 4 ≤ len.toNat then walk (len.toNat + 1) (s.pushLevel (pl + 4) (pl + len.toNat)) else .ok s := rfl
  unfold decodeChunk chunkBody
  rw [← hcat]
  split_ifs
  · exact exec_cat hat
  · exact exec_glob hat
  · exact exec_head hat
  · exact exec_sinf hat
  · exact exec_slce hat
  · exact exec_sdat hat
  · rfl

theorem walkKeeps_work (w : Work) : WalkKeeps fun s => s.work = w where
  push _ _ _ h := h
  pop _ h := h
  trunc _ h := h
  advance s len h := (s.advance_work len).trans h
  fields s t hf h := by rw [hf]; exact h
  decode s t hd h := by rw [hd]; exact h

/-- A chunk's handler that returns leaves the PARSE in its walk, its parameters as they were. -/
theorem chunkBody_ok_walks {f pl : Nat} (hwork : s.work = .walk) (h : chunkBody f pl tag len s = .ok t) :
    t.work = .walk ∧ s.params = t.params := by
  have hwalks := (walkKeeps_work .walk).chunkBody (fun _ => (walkKeeps_work .walk).walk f) pl tag len hwork
  obtain ⟨hparams, -⟩ := chunkBody_sameInputs (walk_sameInputs f) pl tag len s
  rw [h] at hwalks hparams
  exact ⟨hwalks, hparams⟩

/-- The step at a chunk runs the chunk's handler as the walk does, with any fuel above the level's bytes (R190). -/
theorem step_of_chunkBody {f : Nat} (hwork : s.work = .walk) (hwalker : s.walker = l :: rest)
    (hin : l.stop ≤ s.params.inSize) (hf : l.stop - l.pos < f + 1) (h : s.headerAt l = .chunk tag len) :
    step s = afterChunk len (.next (afterHandler (chunkBody f (l.pos + 8) tag len s))) := by
  obtain ⟨hfits, -, -⟩ := headerAt_chunk h
  have hfuel : chunkBody (len.toNat + 1) (l.pos + 8) tag len s = chunkBody f (l.pos + 8) tag len s :=
    chunkBody_congr fun _ => walk_fuel (s.pushLevel_walker _ _) (by dsimp only; omega) (nested_lt_fuel hfits hf)
  rw [step_of_chunk hwork hwalker hin h, exec_decodeChunk ⟨⟨l, rest, hwalker, rfl⟩, hfits.trans hin⟩, hfuel]

/-- Stepping through a level whose bytes lie in IN ends where its walk does: the level closed, or the PARSE ended. -/
theorem reaches_walk {f : Nat} (hwork : s.work = .walk) (hwalker : s.walker = l :: rest)
    (hin : l.stop ≤ s.params.inSize) (hf : l.stop - l.pos < f) : Reaches s (afterHandler (walk f s)) := by
  induction f generalizing s l rest with
  | zero => omega
  | succ f ih =>
    cases hh : s.headerAt l with
    | levelEnds =>
      rw [walk_of_levelEnds f hwalker hh]
      exact .head (step_of_levelEnds hwork hwalker hin hh) (.refl _)
    | truncated =>
      rw [walk_of_truncated f hwalker hh]
      exact .head (step_of_truncated hwork hwalker hin hh) (.refl _)
    | chunk tag len =>
      obtain ⟨hfits, -, -⟩ := headerAt_chunk hh
      have hstep := step_of_chunkBody hwork hwalker hin hf hh
      cases hb : chunkBody f (l.pos + 8) tag len s with
      | raised e u =>
        rw [walk_of_chunk_raised f hwalker hh hb]
        rw [hb] at hstep
        exact .head (hstep.trans (afterChunk_of_ended nofun)) (.refl _)
      | ok u =>
        obtain ⟨hwork', hparams⟩ := chunkBody_ok_walks hwork hb
        have hlevel := u.advance_walker len l rest (chunkBody_ok_level hwalker hf hfits hb)
        rw [walk_of_chunk_ok f hwalker hh hb]
        rw [hb] at hstep
        rw [hparams, ← u.advance_params len] at hin
        exact .head (hstep.trans (afterChunk_of_walk hwork'))
          (ih ((u.advance_work len).trans hwork') hlevel hin (advanced_lt_fuel hfits hf))

/-- Settles O41: the container's nested walk, and the steps that end where it does. -/
theorem containerWalksNestedLevel : Obligations.ContainerWalksNestedLevel := by
  intro s len pl hat hwork hroom
  obtain ⟨-, hin⟩ := id hat
  have hcat : catStep pl len s = walk (len.toNat + 1) (s.pushLevel (pl + 4) (pl + len.toNat)) := if_pos hroom
  obtain ⟨n, hrun⟩ := reaches_walk (f := len.toNat + 1) (s := s.pushLevel (pl + 4) (pl + len.toNat)) hwork
    (s.pushLevel_walker _ _) hin (by dsimp only; omega)
  rw [← hcat] at hrun
  refine ⟨n, _, exec_cat hat, fun hgoes => ?_, hrun⟩
  cases hb : catStep pl len s with
  | raised e u =>
    rw [hb] at hgoes
    cases hgoes
  | ok u => exact walk_ok_walker (s.pushLevel_walker _ _) (by dsimp only; omega) (hcat ▸ hb)

/-! ## Chunks that change nothing (R191, R202) -/

/-- A container with no room for a nested header opens no level, or one that returns at once. -/
theorem catStep_short {pl : Nat} (h : len.toNat < 12) : catStep pl len s = .ok s := by
  unfold catStep
  split_ifs
  · exact walk_of_levelEnds _ (s.pushLevel_walker _ _) (headerAt_of_levelEnds (by dsimp only; omega))
  · rfl

theorem sdatStep_of_decoded (h : s.status.decoded = true) (pl : Nat) (len : Word) : sdatStep pl len s = .ok s :=
  if_pos h

/-- Settles O40: both handlers return the state they were given. -/
theorem shortContainerAndLaterSdatSkipped : Obligations.ShortContainerAndLaterSdatSkipped := by
  intro s len pl hat
  refine ⟨fun hshort => ?_, fun hdecoded => ?_⟩
  · rw [exec_cat hat, catStep_short hshort]
    rfl
  · rw [exec_sdat hat, sdatStep_of_decoded hdecoded]
    rfl

end Sys2Proof.Machine
end

section
/-! PROOFS. 43_iff_parser.md R202 and 44_rex_assembler.md R224 to R226: what the first SDAT of a file decodes. -/

namespace Sys2Proof.Machine

open Sys2Proof.Claims

variable {s t : State} {len : Word}

/-- The state from which an SDAT runs its stream: the latch set, the channel count stored (R224). -/
def State.sdatStart (s : State) : State := { s.setDecoded with decChannels := s.channels }

/-- The frames the model asks for are those of R226, declared when `TOTAL_FRAMES` is not 0. -/
theorem framesWanted_sdatStart (s : State) (len : Word) :
    framesWanted s.sdatStart len = (framesOf s len, decide (s.totalFrames ≠ 0)) := by
  by_cases h : s.totalFrames = 0
  · rw [framesOf, if_pos h, decide_eq_false (not_not.2 h)]
    exact if_pos h
  · rw [framesOf, if_neg h, decide_eq_true h]
    exact if_neg h

/-- An SDAT that passes the checks of R224 ends with its stream, the frames counted. -/
theorem sdatDecode_of_stream {pl count : Nat} (hch : s.channels = 1 ∨ s.channels = 2)
    (hmax : framesOf s len ≤ s.params.maxFrames) (hout : framesOf s len * s.channels.toNat ≤ s.params.outSize)
    (hstream : stream s.sdatStart pl len.toNat s.channels.toNat (framesOf s len) = (count, t))
    (hcount : s.totalFrames = 0 ∨ count = framesOf s len) :
    sdatDecode pl len s = .ok { t with pcmFrames := BitVec.ofNat 32 count } := by
  have hwanted := framesWanted_sdatStart s len
  have hlegal : ¬ (s.channels ≠ 1 ∧ s.channels ≠ 2) := by tauto
  have hceiling : ¬ s.params.maxFrames < (framesWanted s.sdatStart len).1 := by
    rw [hwanted]
    exact not_lt.2 hmax
  have hroom : ¬ s.params.outSize < (framesWanted s.sdatStart len).1 * s.channels.toNat := by
    rw [hwanted]
    exact not_lt.2 hout
  have hreached : ¬ ((framesWanted s.sdatStart len).2 = true ∧
      (stream s.sdatStart pl len.toNat s.channels.toNat (framesWanted s.sdatStart len).1).1 <
        (framesWanted s.sdatStart len).1) := by
    rw [hwanted, hstream, decide_eq_true_iff]
    rintro ⟨hdeclared, hshort⟩
    exact hcount.elim hdeclared hshort.ne
  have hdecode : sdatDecode pl len s =
      .ok { (stream s.sdatStart pl len.toNat s.channels.toNat (framesWanted s.sdatStart len).1).2 with
        pcmFrames := BitVec.ofNat 32
          (stream s.sdatStart pl len.toNat s.channels.toNat (framesWanted s.sdatStart len).1).1 } :=
    (if_neg hlegal).trans ((if_neg hceiling).trans ((if_neg hroom).trans (if_neg hreached)))
  rw [hdecode, hwanted, hstream]

/-- The first SDAT that passes its checks leaves its stream's end, the latch set and the frames counted (R202, R224). -/
theorem exec_sdat_of_stream {ch : Word} {pl count : Nat} {r : StreamRegs} (hat : AtChunk s len pl)
    (hfirst : s.status.decoded = false) (hch : s.channels = ch) (hlegal : ch = 1 ∨ ch = 2)
    (hmax : framesOf s len ≤ s.params.maxFrames) (hout : framesOf s len * ch.toNat ≤ s.params.outSize)
    (hstream : stream s.sdatStart pl len.toNat ch.toNat (framesOf s len) =
      (count, s.sdatStart.streamEnd (framesOf s len) count r))
    (hcount : s.totalFrames = 0 ∨ count = framesOf s len) :
    exec (.sdat len) s = .next { s with
      status := { s.status with decoded := true, short := s.status.short || decide (count < framesOf s len) }
      decChannels := ch, pcmFrames := BitVec.ofNat 32 count
      br := r.br, ch0 := r.ch0, ch1 := r.ch1, outMem := r.out } := by
  subst hch
  have hstep : sdatStep pl len s = sdatDecode pl len s := if_neg (by rw [hfirst]; exact Bool.false_ne_true)
  rw [exec_sdat hat, hstep, sdatDecode_of_stream hlegal hmax hout hstream hcount]
  rfl

/-- Settles O42: the stream of one channel is the mono run, stored from slot 0. -/
theorem sdatDecodesMono : Obligations.SdatDecodesMono := by
  intro s len pl hat hfirst hch hmax hout hwf run hcount
  have hstream := stream_mono s.sdatStart pl len.toNat (framesOf s len)
  exact ⟨storeSamples s.outMem 0 run.1,
    exec_sdat_of_stream hat hfirst hch (.inl rfl) hmax ((Nat.mul_one _).trans_le hout) hstream hcount,
    holdsMono_storeSamples hwf run.1⟩

/-- Settles O43: the stream of two channels is the stereo run, stored interleaved from slot 0. -/
theorem sdatDecodesStereo : Obligations.SdatDecodesStereo := by
  intro s len pl hat hfirst hch hmax hout hwf run hcount
  have hstream := stream_stereo s.sdatStart pl len.toNat (framesOf s len)
  exact ⟨storeSamples s.outMem 0 (interleave run.1),
    exec_sdat_of_stream hat hfirst hch (.inr rfl) hmax ((Nat.mul_comm _ 2).trans_le hout) hstream hcount,
    holdsStereo_storeSamples hwf run.1⟩

end Sys2Proof.Machine
end

section
/-! PROOFS. 44_rex_assembler.md R224 to R226 and R230: the SDAT step by its checks in order, and the errors with which it ends
the PARSE. -/

namespace Sys2Proof.Machine

open Sys2Proof.Claims

variable {s : State} {len : Word}

/-- The SDAT step by its checks in order (R224), the frames it asks for those of R226. -/
theorem sdatDecode_eq (pl : Nat) (len : Word) (s : State) :
    sdatDecode pl len s =
      if s.channels ≠ 1 ∧ s.channels ≠ 2 then .raised .corrupt s.setDecoded
      else if s.params.maxFrames < framesOf s len then .raised .oversize s.sdatStart
      else if s.params.outSize < framesOf s len * s.channels.toNat then .raised .outOfMemory s.sdatStart
      else
        let r := stream s.sdatStart pl len.toNat s.channels.toNat (framesOf s len)
        if s.totalFrames ≠ 0 ∧ r.1 < framesOf s len then .raised .corrupt r.2
        else .ok { r.2 with pcmFrames := BitVec.ofNat 32 r.1 } := by
  have hwanted : framesWanted { s.setDecoded with decChannels := s.setDecoded.channels } len = _ :=
    framesWanted_sdatStart s len
  unfold sdatDecode
  simp only [hwanted, decide_eq_true_eq]
  rfl

theorem sdatStep_of_first (h : s.status.decoded = false) (pl : Nat) (len : Word) :
    sdatStep pl len s = sdatDecode pl len s := if_neg (by rw [h]; exact Bool.false_ne_true)

theorem exec_sdat_first {pl : Nat} (hat : AtChunk s len pl) (hfirst : s.status.decoded = false) :
    exec (.sdat len) s = .next (afterHandler (sdatDecode pl len s)) := by
  rw [exec_sdat hat, sdatStep_of_first hfirst]

theorem sdatDecode_oversize {pl : Nat} (hch : s.channels = 1 ∨ s.channels = 2)
    (hmax : s.params.maxFrames < framesOf s len) : sdatDecode pl len s = .raised .oversize s.sdatStart := by
  rw [sdatDecode_eq, if_neg fun h => hch.elim h.1 h.2, if_pos hmax]

theorem sdatDecode_outOfMemory {pl : Nat} (hch : s.channels = 1 ∨ s.channels = 2)
    (hmax : framesOf s len ≤ s.params.maxFrames) (hout : s.params.outSize < framesOf s len * s.channels.toNat) :
    sdatDecode pl len s = .raised .outOfMemory s.sdatStart := by
  rw [sdatDecode_eq, if_neg fun h => hch.elim h.1 h.2, if_neg (not_lt.2 hmax), if_pos hout]

/-- The first SDAT whose stream falls short of a declared count ends the PARSE with `Corrupt`, the run's end kept (R224, R225). -/
theorem exec_sdat_of_short {ch : Word} {pl count : Nat} {r : StreamRegs} (hat : AtChunk s len pl)
    (hfirst : s.status.decoded = false) (hch : s.channels = ch) (hlegal : ch = 1 ∨ ch = 2)
    (hmax : framesOf s len ≤ s.params.maxFrames) (hout : framesOf s len * ch.toNat ≤ s.params.outSize)
    (hstream : stream s.sdatStart pl len.toNat ch.toNat (framesOf s len) =
      (count, s.sdatStart.streamEnd (framesOf s len) count r))
    (hdeclared : s.totalFrames ≠ 0) (hshort : count < framesOf s len) :
    exec (.sdat len) s = .next { s.release with
      walker := [], work := .none
      status := { state := .error, trunc := s.status.trunc, short := true, decoded := true, err := 5 }
      br := r.br, ch0 := r.ch0, ch1 := r.ch1, outMem := r.out } := by
  subst hch
  have hdecode : sdatDecode pl len s = .raised .corrupt (s.sdatStart.streamEnd (framesOf s len) count r) := by
    rw [sdatDecode_eq, if_neg fun h => hlegal.elim h.1 h.2, if_neg (not_lt.2 hmax), if_neg (not_lt.2 hout), hstream]
    exact if_pos ⟨hdeclared, hshort⟩
  have hflag : (s.sdatStart.status.short || decide (count < framesOf s len)) = true := by
    rw [decide_eq_true hshort, Bool.or_true]
  rw [exec_sdat_first hat hfirst, hdecode, State.streamEnd, hflag]
  rfl

/-- Settles O44: by the checks of the SDAT step in order; a short stream leaves the run that the stream follows. -/
theorem sdatErrorsEndParse : Obligations.SdatErrorsEndParse := by
  intro s len pl hat hfirst ended
  refine ⟨fun h1 h2 => ?_, fun hch => ⟨fun hmax => ?_, fun hmax hout => ?_⟩, ?_, ?_⟩
  · rw [exec_sdat_first hat hfirst, sdatDecode_eq, if_pos ⟨h1, h2⟩]
    rfl
  · rw [exec_sdat_first hat hfirst, sdatDecode_oversize hch hmax]
    rfl
  · rw [exec_sdat_first hat hfirst, sdatDecode_outOfMemory hch hmax hout]
    rfl
  · intro hch hdeclared hmax hout run hshort
    have hstream := stream_mono s.sdatStart pl len.toNat (framesOf s len)
    exact ⟨storeSamples s.outMem 0 run.1,
      exec_sdat_of_short hat hfirst hch (.inl rfl) hmax ((Nat.mul_one _).trans_le hout) hstream hdeclared hshort,
      fun hwf => holdsMono_storeSamples hwf run.1⟩
  · intro hch hdeclared hmax hout run hshort
    have hstream := stream_stereo s.sdatStart pl len.toNat (framesOf s len)
    exact ⟨storeSamples s.outMem 0 (interleave run.1),
      exec_sdat_of_short hat hfirst hch (.inr rfl) hmax ((Nat.mul_comm _ 2).trans_le hout) hstream hdeclared hshort,
      fun hwf => holdsStereo_storeSamples hwf run.1⟩

end Sys2Proof.Machine
end

section
/-! PROOFS. 44_rex_assembler.md R220 to R231: PARSE up to its walk and after it, the clamp of the slices, and DESTROY. -/

namespace Sys2Proof.Machine

open Sys2Proof.Claims

variable {s t : State}

/-! ## Up to the walk (R222, R223) -/

/-- PARSE after its release, the flags clear and `RESULT` 0: where its pre-checks raise (R222). -/
def State.parseCleared (s : State) : State := { s.release.clearFlags with result := 0 }

/-- PARSE at the start of its walk: the defaults set, the input open as one level (R223). -/
def State.parseOpened (s : State) : State :=
  { s.parseCleared with sampleRate := 44100, channels := 1, walker := [{ pos := 0, stop := s.inLen.toNat }] }

theorem State.parseCleared_beginCommand (s : State) : s.beginCommand.parseCleared = { s.release with
    status := { state := .busy, trunc := false, short := false, decoded := false, err := 0 }, result := 0 } := rfl

theorem State.parseOpened_beginCommand (s : State) : s.beginCommand.parseOpened = { s.release with
    status := { state := .busy, trunc := false, short := false, decoded := false, err := 0 }
    result := 0, sampleRate := 44100, channels := 1, walker := [{ pos := 0, stop := s.inLen.toNat }] } := by
  rw [State.parseOpened, State.parseCleared_beginCommand]
  rfl

/-- The pre-checks of PARSE in order (R222). -/
theorem parseStart_eq (s : State) :
    parseStart s =
      if s.params.inSize < s.inLen.toNat then .raised .badArgument s.parseCleared
      else if s.inLen.toNat < s.params.minFileBytes then .raised .tooSmall s.parseCleared
      else if s.tagAt 0 ≠ tagCat then .raised .notIFF s.parseCleared
      else .ok s.parseOpened := by
  have hlen : (!s.inLenOk) = true ↔ s.params.inSize < s.inLen.toNat := by simp [State.inLenOk]
  exact if_congr hlen rfl rfl

theorem parseStart_passed (hlen : s.inLen.toNat ≤ s.params.inSize) (hmin : s.params.minFileBytes ≤ s.inLen.toNat)
    (htag : s.tagAt 0 = tagCat) : parseStart s = .ok s.parseOpened := by
  rw [parseStart_eq, if_neg (not_lt.2 hlen), if_neg (not_lt.2 hmin), if_neg (not_not.2 htag)]

theorem parseStart_ok (h : parseStart s = .ok t) :
    t = s.parseOpened ∧ s.inLen.toNat ≤ s.params.inSize := by
  rw [parseStart_eq] at h
  split_ifs at h with hlen
  injection h with h
  exact ⟨h.symm, not_lt.1 hlen⟩

theorem tagAt_ne_cat (h : quad s 0 ≠ 0x43415420) : s.tagAt 0 ≠ tagCat := by
  intro htag
  rw [← toNat_memRead_four] at h
  exact h (congrArg BitVec.toNat htag)

/-- A PARSE whose pre-checks raise ends on the released state. -/
theorem exec_parse_of_failed {e : ErrorKind}
    (h : parseStart s.beginCommand = .raised e s.beginCommand.parseCleared) :
    exec .parse s = .next { s.release with result := 0, walker := [], status := clearError e.code } := by
  have hbody : parseBody s.beginCommand = .raised e s.beginCommand.parseCleared := by rw [parseBody, h]
  have hexec : exec .parse s = .next (endParse (parseBody s.beginCommand)) := rfl
  rw [hexec, hbody, State.parseCleared_beginCommand]
  rfl

/-- Settles O45: each pre-check in order, the earlier ones passed. -/
theorem parsePreChecks : Obligations.ParsePreChecks := by
  refine fun s => ⟨fun hlen => ?_, fun hlen hmin => ?_, fun hlen hmin htag => ?_⟩
  · exact exec_parse_of_failed ((parseStart_eq _).trans (if_pos hlen))
  · exact exec_parse_of_failed ((parseStart_eq _).trans ((if_neg (not_lt.2 hlen)).trans (if_pos hmin)))
  · exact exec_parse_of_failed ((parseStart_eq _).trans
      ((if_neg (not_lt.2 hlen)).trans ((if_neg (not_lt.2 hmin)).trans (if_pos (tagAt_ne_cat htag)))))

/-! ## After the walk (R227 to R229) -/

/-- A PARSE that does not raise has walked the whole input, found audio, and made its slices (R227 to R229). -/
theorem parseBody_ok (h : parseBody s = .ok t) :
    ∃ u, s.inLen.toNat ≤ s.params.inSize ∧ walk (s.inLen.toNat + 1) s.parseOpened = .ok u ∧
      u.status.decoded = true ∧ u.pcmFrames ≠ 0 ∧ t = { u with slices := finalSlices u.pcmFrames u.slices } := by
  unfold parseBody at h
  split at h
  next => cases h
  next s1 hstart =>
    obtain ⟨rfl, hlen⟩ := parseStart_ok hstart
    split at h
    next => cases h
    next u hwalk =>
      unfold parseEnd at h
      split_ifs at h with hnone
      obtain ⟨hdecoded, hframes⟩ := not_or.1 hnone
      injection h with h
      exact ⟨u, hlen, hwalk, Bool.not_eq_false _ ▸ hdecoded, hframes, h.symm⟩

/-- A PARSE whose pre-checks pass ends as its walk and its last part do. -/
theorem parseBody_of_walk {u : State} (hstart : parseStart s = .ok s.parseOpened)
    (hwalk : walk (s.inLen.toNat + 1) s.parseOpened = .ok u) : parseBody s = parseEnd u := by
  have hwalk' : walk (s.parseOpened.inLen.toNat + 1) s.parseOpened = .ok u := hwalk
  simp only [parseBody, hstart, hwalk']

theorem parseBody_of_raised {e : ErrorKind} {u : State} (hstart : parseStart s = .ok s.parseOpened)
    (hwalk : walk (s.inLen.toNat + 1) s.parseOpened = .raised e u) : parseBody s = .raised e u := by
  have hwalk' : walk (s.parseOpened.inLen.toNat + 1) s.parseOpened = .raised e u := hwalk
  simp only [parseBody, hstart, hwalk']

/-- The walk of the whole input closes its only level. -/
theorem walk_parseOpened_walker {u : State} (h : walk (s.inLen.toNat + 1) s.parseOpened = .ok u) : u.walker = [] :=
  walk_ok_walker (s := s.parseOpened) rfl (Nat.lt_succ_self s.inLen.toNat) h

/-- Settles O47: an error releases whatever the walk had stored, and a walk that returns has closed its level. -/
theorem parseFailureReleases : Obligations.ParseFailureReleases := by
  intro s
  obtain ⟨-, hresult⟩ := exec_parse_ends (s := s) rfl
  refine ⟨endParse (parseBody s.beginCommand), rfl, endParse_state _, hresult, ?_, ?_⟩
  · cases hbody : parseBody s.beginCommand with
    | raised e u => rfl
    | ok u =>
      obtain ⟨v, -, hwalk, -, -, rfl⟩ := parseBody_ok hbody
      have hclosed := walk_parseOpened_walker hwalk
      exact hclosed
  · cases parseBody s.beginCommand with
    | raised e u => exact fun _ => released_release u
    | ok u => exact nofun

/-! ## The slices (R228, R229) -/

theorem clampSlice_off (frames : Word) (x : Slice) : (clampSlice frames x).off = x.off := by
  unfold clampSlice
  split_ifs <;> rfl

theorem clampSlice_len (frames : Word) (x : Slice) :
    (clampSlice frames x).len.toNat =
      if x.off.toNat + x.len.toNat ≤ frames.toNat then x.len.toNat else frames.toNat - x.off.toNat := by
  unfold clampSlice
  split_ifs with hruns hstarts hfits hfits hfits
  · omega
  · exact BitVec.toNat_sub_of_le (BitVec.le_def.2 hstarts.le)
  · omega
  · exact (Nat.sub_eq_zero_of_le (not_lt.1 hstarts)).symm
  · rfl
  · omega

theorem clampSlice_of_fits {frames : Word} {x : Slice} (h : x.off.toNat + x.len.toNat ≤ frames.toNat) :
    clampSlice frames x = x := if_neg (not_lt.2 h)

theorem finalSlices_nil (frames : Word) : finalSlices frames [] = [{ off := 0, len := frames }] :=
  congrArg (fun x => [x]) (clampSlice_of_fits (Nat.zero_add frames.toNat).le)

theorem finalSlices_of_ne_nil (frames : Word) {l : List Slice} (h : l ≠ []) :
    finalSlices frames l = l.map (clampSlice frames) := by
  cases l with
  | nil => exact absurd rfl h
  | cons x rest => rfl

/-- Settles O49: the three cases of the clamp, and the synthesis of the empty table. -/
theorem slicesAreClamped : Obligations.SlicesAreClamped :=
  ⟨fun frames x => ⟨clampSlice_off frames x, clampSlice_len frames x⟩, finalSlices_nil,
    fun frames _ h => finalSlices_of_ne_nil frames h⟩

/-! ## DESTROY (R231) -/

/-- Settles O52: DESTROY releases, clears the flags and ends. -/
theorem destroyReleases : Obligations.DestroyReleases := fun _ => rfl

end Sys2Proof.Machine
end

section
/-! PROOFS. 43_iff_parser.md R180 to R190: two walks that go on alike, by one induction; and what a walk keeps, as a walk that
goes on like itself. -/

namespace Sys2Proof.Machine

open Sys2Proof.Claims

variable {s t : State}

/-! ## Two walks alike -/

/-- Two results end alike: both without an error or both by the same one, on related states. -/
inductive CmdResult.Relates (R : State → State → Prop) : CmdResult → CmdResult → Prop where
  | ok {s t : State} (h : R s t) : Relates R (.ok s) (.ok t)
  | raised {s t : State} (e : ErrorKind) (h : R s t) : Relates R (.raised e s) (.raised e t)

/-- An offset at or below the boundary of the innermost level. -/
def State.Inside (s : State) (a : Nat) : Prop := ∃ l rest, s.walker = l :: rest ∧ a ≤ l.stop

/-- What a relation between two states must survive to survive PARSE's walk: the header at the cursor, the levels, and the
handler of every chunk whose payload lies in the innermost level. -/
structure WalkRelates (R : State → State → Prop) : Prop where
  walker : ∀ {s t}, R s t → t.walker = s.walker
  header : ∀ {s t l rest}, R s t → s.walker = l :: rest → t.headerAt l = s.headerAt l
  push : ∀ {s t} a {b}, R s t → s.Inside b → R (s.pushLevel a b) (t.pushLevel a b)
  pop : ∀ {s t}, R s t → R s.popLevel t.popLevel
  trunc : ∀ {s t}, R s t → R s.setTrunc t.setTrunc
  advance : ∀ {s t} len, R s t → R (s.advance len) (t.advance len)
  glob : ∀ {s t pl len}, R s t → s.Inside (pl + len.toNat) → R (globStep pl len s) (globStep pl len t)
  head : ∀ {s t pl len}, R s t → s.Inside (pl + len.toNat) → R (headStep pl len s) (headStep pl len t)
  sinf : ∀ {s t pl len}, R s t → s.Inside (pl + len.toNat) → R (sinfStep pl len s) (sinfStep pl len t)
  slce : ∀ {s t pl len}, R s t → s.Inside (pl + len.toNat) → R (slceStep pl len s) (slceStep pl len t)
  sdat : ∀ {s t pl len}, R s t → s.Inside (pl + len.toNat) → (sdatStep pl len s).Relates R (sdatStep pl len t)

section
variable {R : State → State → Prop} (hR : WalkRelates R)
include hR

/-- A chunk's handler keeps the relation when a nested walk, run with the same fuel, does. -/
theorem WalkRelates.chunkBody {f pl : Nat} {len : Word} (hnested : ∀ {s t}, R s t → (walk f s).Relates R (walk f t))
    (tag : Word) (h : R s t) (hin : s.Inside (pl + len.toNat)) :
    (chunkBody f pl tag len s).Relates R (chunkBody f pl tag len t) := by
  unfold Machine.chunkBody
  split_ifs
  · exact hnested (hR.push _ h hin)
  · exact .ok h
  · exact .ok (hR.glob h hin)
  · exact .ok (hR.head h hin)
  · exact .ok (hR.sinf h hin)
  · exact .ok (hR.slce h hin)
  · exact hR.sdat h hin
  · exact .ok h

/-- The walks of related states end alike. -/
theorem WalkRelates.walk (f : Nat) (h : R s t) : (walk f s).Relates R (walk f t) := by
  induction f generalizing s t with
  | zero => exact .ok h
  | succ f ih =>
    have hwt := hR.walker h
    cases hws : s.walker with
    | nil =>
      simp only [Machine.walk, hwt, hws]
      exact .ok h
    | cons l rest =>
      have hht := hR.header h hws
      rw [hws] at hwt
      cases hhs : s.headerAt l with
      | levelEnds =>
        rw [walk_of_levelEnds f hws hhs, walk_of_levelEnds f hwt (hht.trans hhs)]
        exact .ok (hR.pop h)
      | truncated =>
        rw [walk_of_truncated f hws hhs, walk_of_truncated f hwt (hht.trans hhs)]
        exact .ok (hR.trunc (hR.pop h))
      | chunk tag len =>
        obtain ⟨hfits, -, -⟩ := headerAt_chunk hhs
        have hbody := hR.chunkBody ih tag h ⟨l, rest, hws, hfits⟩
        generalize hbs : Machine.chunkBody f (l.pos + 8) tag len s = rs at hbody
        generalize hbt : Machine.chunkBody f (l.pos + 8) tag len t = rt at hbody
        cases hbody with
        | raised e h' =>
          rw [walk_of_chunk_raised f hws hhs hbs, walk_of_chunk_raised f hwt (hht.trans hhs) hbt]
          exact .raised e h'
        | ok h' =>
          rw [walk_of_chunk_ok f hws hhs hbs, walk_of_chunk_ok f hwt (hht.trans hhs) hbt]
          exact ih (hR.advance len h')

end

/-! ## The audio and the slices a walk stores (R199 to R202, R224) -/

/-- What PARSE's walk keeps of its results: no more slices than fit, and one or two channels once frames are counted. -/
def State.Shaped (s : State) : Prop :=
  s.slices.length ≤ s.params.maxSlices ∧ (s.pcmFrames ≠ 0 → s.decChannels = 1 ∨ s.decChannels = 2)

/-- A field extractor that leaves the slice table alone keeps the shape. -/
theorem State.Shaped.of_fields (h : s.Shaped) (hf : SameButFields s t) (hslices : t.slices = s.slices) : t.Shaped := by
  unfold SameButFields at hf
  rw [hslices] at hf
  rw [hf]
  exact h

theorem globStep_slices (pl : Nat) (len : Word) (s : State) : (globStep pl len s).slices = s.slices := by
  unfold globStep
  split_ifs <;> rfl

theorem headStep_slices (pl : Nat) (len : Word) (s : State) : (headStep pl len s).slices = s.slices := by
  unfold headStep
  split_ifs <;> rfl

theorem sinfStep_slices (pl : Nat) (len : Word) (s : State) : (sinfStep pl len s).slices = s.slices := by
  unfold sinfStep
  split_ifs <;> rfl

theorem State.Shaped.slceStep (h : s.Shaped) (pl : Nat) (len : Word) : (slceStep pl len s).Shaped := by
  obtain ⟨hcount, hch⟩ := id h
  rcases slceStep_cases pl len s with heq | ⟨hroom, x, -, heq⟩ <;> rw [heq]
  · exact h
  · exact ⟨by simpa using hroom, hch⟩

theorem sdatStart_shaped (h : s.Shaped) (hch : s.channels = 1 ∨ s.channels = 2) : s.sdatStart.Shaped :=
  ⟨h.1, fun _ => hch⟩

/-- A stream keeps the shape, and so do its frames once counted. -/
theorem stream_shaped (h : s.Shaped) (hch : s.decChannels = 1 ∨ s.decChannels = 2) (off len ch n : Nat) (frames : Word) :
    (stream s off len ch n).2.Shaped ∧ State.Shaped { (stream s off len ch n).2 with pcmFrames := frames } := by
  obtain ⟨-, br, ch0, ch1, out, -, -, -, heq⟩ := stream_cases s off len ch n
  rw [heq]
  exact ⟨h, h.1, fun _ => hch⟩

theorem sdatDecode_shaped (h : s.Shaped) (pl : Nat) (len : Word) : (sdatDecode pl len s).state.Shaped := by
  rw [sdatDecode_eq]
  by_cases hch : s.channels = 1 ∨ s.channels = 2
  · have hstart := sdatStart_shaped h hch
    have hstream := stream_shaped hstart hch pl len.toNat s.channels.toNat (framesOf s len)
    rw [if_neg fun h => hch.elim h.1 h.2]
    split_ifs
    · exact hstart
    · exact hstart
    · dsimp only
      split_ifs
      · exact (hstream 0).1
      · exact (hstream _).2
  · rw [if_pos (not_or.1 hch)]
    exact h

theorem sdatStep_shaped (h : s.Shaped) (pl : Nat) (len : Word) : (sdatStep pl len s).state.Shaped := by
  unfold sdatStep
  split_ifs
  · exact h
  · exact sdatDecode_shaped h pl len

/-- A result whose state meets a predicate is related to itself by the predicate. -/
theorem CmdResult.relates_self {P : State → Prop} {r : CmdResult} (h : P r.state) :
    r.Relates (fun s t => t = s ∧ P s) r := by
  cases r with
  | ok s => exact .ok ⟨rfl, h⟩
  | raised e s => exact .raised e ⟨rfl, h⟩

/-- The walk keeps the shape: it goes on like itself, on shaped states. -/
theorem walkRelates_shaped : WalkRelates fun s t => t = s ∧ s.Shaped where
  walker := by rintro s _ ⟨rfl, -⟩; rfl
  header := by rintro s _ l rest ⟨rfl, -⟩ -; rfl
  push := by rintro s _ a b ⟨rfl, h⟩ -; exact ⟨rfl, h⟩
  pop := by rintro s _ ⟨rfl, h⟩; exact ⟨rfl, h⟩
  trunc := by rintro s _ ⟨rfl, h⟩; exact ⟨rfl, h⟩
  advance := by
    rintro s _ len ⟨rfl, h⟩
    refine ⟨rfl, ?_⟩
    simpa only [State.Shaped, State.advance_slices, State.advance_params, State.advance_pcmFrames,
      State.advance_decChannels] using h
  glob := by rintro s _ pl len ⟨rfl, h⟩ -; exact ⟨rfl, h.of_fields (globStep_frame pl len _) (globStep_slices pl len _)⟩
  head := by rintro s _ pl len ⟨rfl, h⟩ -; exact ⟨rfl, h.of_fields (headStep_frame pl len _) (headStep_slices pl len _)⟩
  sinf := by rintro s _ pl len ⟨rfl, h⟩ -; exact ⟨rfl, h.of_fields (sinfStep_frame pl len _) (sinfStep_slices pl len _)⟩
  slce := by rintro s _ pl len ⟨rfl, h⟩ -; exact ⟨rfl, h.slceStep pl len⟩
  sdat := by rintro s _ pl len ⟨rfl, h⟩ -; exact CmdResult.relates_self (sdatStep_shaped h pl len)

theorem walk_ok_shaped {f : Nat} (h : s.Shaped) (hwalk : walk f s = .ok t) : t.Shaped := by
  have hrel := walkRelates_shaped.walk f ⟨rfl, h⟩
  rw [hwalk] at hrel
  cases hrel with
  | ok h => exact h.2

/-- Settles O48: the walk's shape, and the slices that the last part of PARSE makes of those it stored. -/
theorem parseSuccessShape : Obligations.ParseSuccessShape := by
  intro s t hvalid hexec hdone
  obtain ⟨-, -, hslices, -, -⟩ := hvalid
  rw [← exec_params hexec] at hslices
  have herr : t.status.err = 0 := by
    rcases (exec_parse_ends hexec).1 with ⟨-, herr⟩ | ⟨herror, -⟩
    · exact herr
    · rw [hdone] at herror
      cases herror
  injection hexec with hexec
  cases hbody : parseBody s.beginCommand with
  | raised e u =>
    rw [hbody] at hexec
    subst hexec
    cases hdone
  | ok u =>
    rw [hbody] at hexec
    obtain ⟨v, -, hwalk, hdecoded, hframes, rfl⟩ := parseBody_ok hbody
    have hopened : s.beginCommand.parseOpened.Shaped := ⟨Nat.zero_le _, fun hne => absurd rfl hne⟩
    obtain ⟨hcount, hch⟩ := walk_ok_shaped hopened hwalk
    subst hexec
    have hlength := finalSlices_length v.pcmFrames v.slices
    refine ⟨hdecoded, herr, hframes, hch hframes, ?_, ?_, finalSlices_clamped v.pcmFrames v.slices⟩
    · exact List.ne_nil_of_length_pos (hlength ▸ Nat.lt_of_lt_of_le Nat.one_pos (le_max_left 1 _))
    · exact hlength.trans_le (max_le hslices hcount)

end Sys2Proof.Machine
end

section
/-! PROOFS. 44_rex_assembler.md R221 and R227 with 43_iff_parser.md R180: PARSE chunk by chunk ends where the command does
(log 4). -/

namespace Sys2Proof.Machine

open Sys2Proof.Claims

variable {s t u : State}

/-! ## Two SDATs alike (R224) -/

/-- What the loop of a stream counts and leaves (R160 to R162). -/
def State.streamLoop (s : State) (off len ch n : Nat) : Nat × StreamRegs :=
  let start : StreamRegs := { br := bindReader off len, ch0 := initChannel, ch1 := initChannel, out := s.outMem }
  if ch = 1 then monoLoop s.inMem s.params.unaryCap n 0 start else stereoLoop s.inMem s.params.unaryCap n 0 start

theorem stream_eq (s : State) (off len ch n : Nat) :
    stream s off len ch n =
      ((s.streamLoop off len ch n).1, s.streamEnd n (s.streamLoop off len ch n).1 (s.streamLoop off len ch n).2) := by
  rw [← State.streamEnd_eq]
  rfl

/-- Two first SDATs end alike when they take the same decisions on states related at each of the step's ends. -/
theorem sdatDecode_relates {R : State → State → Prop} {pl : Nat} {len : Word} (hparams : t.params = s.params)
    (hch : t.channels = s.channels) (htotal : t.totalFrames = s.totalFrames) (hlatch : R s.setDecoded t.setDecoded)
    (hstart : R s.sdatStart t.sdatStart)
    (hstream : (s.channels = 1 ∨ s.channels = 2) → ∃ count r r',
      s.sdatStart.streamLoop pl len.toNat s.channels.toNat (framesOf s len) = (count, r) ∧
      t.sdatStart.streamLoop pl len.toNat s.channels.toNat (framesOf s len) = (count, r') ∧
      R (s.sdatStart.streamEnd (framesOf s len) count r) (t.sdatStart.streamEnd (framesOf s len) count r') ∧
      R { s.sdatStart.streamEnd (framesOf s len) count r with pcmFrames := BitVec.ofNat 32 count }
        { t.sdatStart.streamEnd (framesOf s len) count r' with pcmFrames := BitVec.ofNat 32 count }) :
    (sdatDecode pl len s).Relates R (sdatDecode pl len t) := by
  have hframes : framesOf t len = framesOf s len := by rw [framesOf, framesOf, htotal, hparams]
  rw [sdatDecode_eq, sdatDecode_eq, hch, hparams, hframes, htotal]
  by_cases hlegal : s.channels = 1 ∨ s.channels = 2
  · obtain ⟨count, r, r', hs, ht, hend, hok⟩ := hstream hlegal
    have hnot : ¬ (s.channels ≠ 1 ∧ s.channels ≠ 2) := fun h => hlegal.elim h.1 h.2
    rw [if_neg hnot, if_neg hnot, stream_eq, stream_eq, hs, ht]
    dsimp only
    split_ifs
    · exact .raised _ hstart
    · exact .raised _ hstart
    · exact .raised _ hend
    · exact .ok hok
  · rw [if_pos (not_or.1 hlegal), if_pos (not_or.1 hlegal)]
    exact .raised _ hlatch

/-! ## The walk does not read the place inside the command -/

/-- The same state inside PARSE's walk (log 4). -/
def State.walking (s : State) : State := { s with work := .walk }

theorem sdatStep_walking (pl : Nat) (len : Word) (s : State) :
    (sdatStep pl len s).Relates (fun s t => t = s.walking) (sdatStep pl len s.walking) := by
  cases hfirst : s.status.decoded with
  | true =>
    rw [sdatStep_of_decoded hfirst, sdatStep_of_decoded (s := s.walking) hfirst]
    exact .ok rfl
  | false =>
    rw [sdatStep_of_first hfirst, sdatStep_of_first (s := s.walking) hfirst]
    exact sdatDecode_relates rfl rfl rfl rfl rfl fun _ => ⟨_, _, _, rfl, rfl, rfl, rfl⟩

theorem walkRelates_walking : WalkRelates fun s t => t = s.walking where
  walker := by rintro s _ rfl; rfl
  header := by rintro s _ l rest rfl -; rfl
  push := by rintro s _ a b rfl -; rfl
  pop := by rintro s _ rfl; rfl
  trunc := by rintro s _ rfl; rfl
  advance := by
    rintro s _ len rfl
    unfold State.advance State.walking
    dsimp only
    split <;> rfl
  glob := by
    rintro s _ pl len rfl -
    unfold globStep
    split_ifs <;> rfl
  head := by
    rintro s _ pl len rfl -
    unfold headStep
    split_ifs <;> rfl
  sinf := by
    rintro s _ pl len rfl -
    unfold sinfStep
    split_ifs <;> rfl
  slce := by
    rintro s _ pl len rfl -
    unfold slceStep State.walking
    dsimp only
    split_ifs <;> rfl
  sdat := by rintro s _ pl len rfl -; exact sdatStep_walking pl len s

/-! ## PARSE step by step (R180, R227) -/

theorem run_succ_next {n : Nat} (h : Host.Core.run core (n + 1) s = .next t) :
    ∃ u, step s = .next u ∧ Host.Core.run core n u = .next t := by
  cases hstep : step s with
  | next u => exact ⟨u, rfl, (run_succ n hstep).symm.trans h⟩
  | fault | refused =>
    have hcore : core.step s = step s := rfl
    simp only [Host.Core.run, hcore, hstep] at h
    cases h

theorem Reaches.trans (hst : Reaches s t) (htu : Reaches t u) : Reaches s u := by
  obtain ⟨n, hn⟩ := hst
  induction n generalizing s with
  | zero =>
    injection hn with hn
    rwa [hn]
  | succ n ih =>
    obtain ⟨v, hstep, hrest⟩ := run_succ_next hn
    exact .head hstep (ih hrest)

/-- A walk with no level open goes on with the rest of PARSE (R227). -/
theorem step_walkEnds (hwork : s.work = .walk) (hwalker : s.walker = []) : step s = .next (walkEnds s) := by
  simp only [step, hwork, walkStep, hwalker]

/-- Between commands, the end of a PARSE leaves no place inside one. -/
theorem endParse_work {r : CmdResult} (h : r.state.work = .none) : { endParse r with work := .none } = endParse r := by
  cases r <;> exact congrArg (fun w => { endParse _ with work := w }) h.symm

/-- The end of a walk that was stepped is the end of the command's walk. -/
theorem walkEnds_walking (h : s.work = .none) : walkEnds s.walking = endParse (parseEnd s) := by
  have hwork : (parseEnd s).state.work = .none := by
    unfold parseEnd
    split_ifs <;> exact h
  rw [← endParse_work hwork]
  unfold walkEnds parseEnd State.walking
  dsimp only
  split_ifs <;> rfl

/-- Stepping PARSE from the start of its walk ends where the command's body does. -/
theorem reaches_parse (hwork : s.work = .none) (hlen : s.inLen.toNat ≤ s.params.inSize)
    (hstart : parseStart s = .ok s.parseOpened) : Reaches s.parseOpened.walking (endParse (parseBody s)) := by
  have hsteps := reaches_walk (f := s.inLen.toNat + 1) (s := s.parseOpened.walking) rfl rfl hlen (Nat.lt_succ_self _)
  have hrel := walkRelates_walking.walk (s.inLen.toNat + 1) (rfl : s.parseOpened.walking = s.parseOpened.walking)
  have hnone := (walkKeeps_work .none).walk (s.inLen.toNat + 1) (s := s.parseOpened) hwork
  cases hwalk : walk (s.inLen.toNat + 1) s.parseOpened with
  | raised e u =>
    rw [hwalk] at hrel hnone
    generalize walk (s.inLen.toNat + 1) s.parseOpened.walking = r at hrel hsteps
    cases hrel with | raised _ hv =>
    rw [parseBody_of_raised hstart hwalk, ← endParse_work (r := .raised e u) hnone.2]
    rwa [hv] at hsteps
  | ok u =>
    rw [hwalk] at hrel hnone
    generalize walk (s.inLen.toNat + 1) s.parseOpened.walking = r at hrel hsteps
    cases hrel with | ok hv =>
    rw [parseBody_of_walk hstart hwalk, ← walkEnds_walking hnone]
    rw [hv] at hsteps
    have hclosed := walk_parseOpened_walker hwalk
    exact hsteps.trans (.head (step_walkEnds rfl hclosed) (.refl _))

/-- Settles O50: the steps go through the walk as the command does, and end with the same last part. -/
theorem parseStepsAgreeWithCommand : Obligations.ParseStepsAgreeWithCommand := by
  intro s s1 hwork hstart
  obtain ⟨rfl, hlen⟩ := parseStart_ok hstart
  obtain ⟨n, hn⟩ := reaches_parse (s := s.beginCommand) hwork hlen hstart
  exact ⟨n, _, rfl, hn⟩

end Sys2Proof.Machine
end

section
/-! PROOFS. 44_rex_assembler.md R221 to R228: PARSE of the smallest audio file, one container that holds one SDAT. -/

namespace Sys2Proof.Machine

open Sys2Proof.Claims

variable {s t : State} {l : Level} {rest : List Level} {tag len : Word}

/-! ## A level that one chunk fills -/

/-- The walk of a level that one chunk fills is the chunk's handler, and closes the level (R182, R187). -/
theorem walk_of_filled {f : Nat} (hwalker : s.walker = l :: rest) (hheader : s.headerAt l = .chunk tag len)
    (hfills : l.pos + 8 + len.toNat = l.stop) (hbody : chunkBody (f + 1) (l.pos + 8) tag len s = .ok t)
    (hlevel : t.walker = l :: rest) : walk (f + 2) s = .ok { t with walker := rest } := by
  have hpast : l.stop < l.pos + chunkSize len + 8 := by
    unfold chunkSize
    omega
  rw [walk_of_chunk_ok (f + 1) hwalker hheader hbody, State.advance_eq hlevel,
    walk_of_levelEnds f rfl (headerAt_of_levelEnds hpast), State.popLevel_eq rfl]

theorem chunkBody_cat {f pl stop : Nat} (h : 4 ≤ len.toNat) (hstop : pl + len.toNat = stop) :
    chunkBody f pl tagCat len s = walk f (s.pushLevel (pl + 4) stop) := hstop ▸ if_pos h

theorem chunkBody_sdat (f pl : Nat) : chunkBody f pl tagSdat len s = sdatStep pl len s := rfl

theorem headerAt_of_quads {pos n w : Nat} (htag : quad s pos = w) (hlen : quad s (pos + 4) = n) :
    s.headerAt { pos := pos, stop := pos + 8 + n } = .chunk (BitVec.ofNat 32 w) (BitVec.ofNat 32 n) := by
  subst htag hlen
  exact headerAt_of_fits le_rfl

/-- A length field of IN, as a word, is the number it holds. -/
theorem toNat_ofNat_of_quad {pos n : Nat} (h : quad s pos = n) : (BitVec.ofNat 32 n).toNat = n := by
  rw [← h]
  exact toNat_ofNat_quad s pos

/-! ## The file -/

/-- What an SDAT of a mono file without SINF leaves, of the run of its stream of `n` frames (R224, R226). -/
def State.monoParsed (s : State) (n : Nat) (run : List Sample × BitReader × Channel) : State :=
  { s with
    status := { s.status with decoded := true, short := s.status.short || decide (run.1.length < n) }
    pcmFrames := BitVec.ofNat 32 run.1.length, decChannels := s.channels
    br := run.2.1, ch0 := run.2.2, ch1 := Channel.initial, outMem := storeSamples s.outMem 0 run.1 }

/-- The first SDAT of a mono file without SINF asks for the derived frame count (R226). -/
theorem sdatStep_derived {pl : Nat} (hfirst : s.status.decoded = false) (hch : s.channels = 1) (htotal : s.totalFrames = 0)
    (hmax : frameBound s.params len.toNat ≤ s.params.maxFrames) (hout : frameBound s.params len.toNat ≤ s.params.outSize) :
    sdatStep pl len s =
      .ok (s.monoParsed (frameBound s.params len.toNat) (monoOf s pl len.toNat (frameBound s.params len.toNat))) := by
  have hframes : framesOf s len = frameBound s.params len.toNat := if_pos htotal
  have hone : s.channels.toNat = 1 := congrArg BitVec.toNat hch
  have hroom : framesOf s len * s.channels.toNat ≤ s.params.outSize := by rwa [hframes, hone, Nat.mul_one]
  have hstream : stream s.sdatStart pl len.toNat s.channels.toNat (framesOf s len) = _ :=
    (congrArg (stream s.sdatStart pl len.toNat · (framesOf s len)) hone).trans (stream_mono _ _ _ _)
  rw [sdatStep_of_first hfirst, sdatDecode_of_stream (.inl hch) (hframes.trans_le hmax) hroom hstream (.inl htotal), hframes]
  rfl

/-- The walk of a file that is one container holding one SDAT (R191, R202): one chunk fills each of its two levels. -/
theorem walk_singleSdat {n : Nat} (hlen : s.inLen.toNat = 20 + n) (hcat : quad s 0 = 0x43415420)
    (hcatLen : quad s 4 = 12 + n) (hsdat : quad s 12 = 0x53444154) (hsdatLen : quad s 16 = n)
    (hmax : frameBound s.params n ≤ s.params.maxFrames) (hout : frameBound s.params n ≤ s.params.outSize) :
    walk (s.inLen.toNat + 1) s.parseOpened =
      .ok { s.parseOpened.monoParsed (frameBound s.params n) (monoOf s 20 n (frameBound s.params n)) with walker := [] } := by
  have hn := toNat_ofNat_of_quad hsdatLen
  have hn12 := toNat_ofNat_of_quad hcatLen
  have hstop : s.inLen.toNat = 0 + 8 + (12 + n) := by omega
  have hsdatBody : chunkBody (n + 19) 20 tagSdat (BitVec.ofNat 32 n) (s.parseOpened.pushLevel 12 (12 + 8 + n)) = _ :=
    (chunkBody_sdat _ _).trans (sdatStep_derived rfl rfl rfl (by rwa [hn]) (by rwa [hn]))
  have hinner : walk (n + 20) (s.parseOpened.pushLevel 12 (12 + 8 + n)) = _ :=
    walk_of_filled (f := n + 18) rfl (headerAt_of_quads hsdat hsdatLen) (by rw [hn]) hsdatBody rfl
  have hcatBody : chunkBody (n + 20) 8 tagCat (BitVec.ofNat 32 (12 + n)) s.parseOpened = _ :=
    (chunkBody_cat (by omega) (by omega)).trans hinner
  have houter : walk (n + 21) s.parseOpened = _ :=
    walk_of_filled (f := n + 19) (l := { pos := 0, stop := 0 + 8 + (12 + n) }) (by rw [State.parseOpened, hstop])
      (headerAt_of_quads hcat hcatLen) (by rw [hn12]) hcatBody (by rw [State.parseOpened, hstop])
  rw [show s.inLen.toNat + 1 = n + 21 by omega, houter, hn]
  rfl

/-- The last part of PARSE after that walk: some frames, and no slice stored (R227, R228). -/
theorem parseEnd_monoParsed {n : Nat} {run : List Sample × BitReader × Channel} (hslices : s.slices = [])
    (hrun : run.1 ≠ []) (hfits : run.1.length < 2 ^ 32) :
    parseEnd { s.monoParsed n run with walker := [] } = .ok { s.monoParsed n run with
      walker := [], slices := [{ off := 0, len := BitVec.ofNat 32 run.1.length }] } := by
  have hpos := List.length_pos_iff.2 hrun
  have hframes : BitVec.ofNat 32 run.1.length ≠ 0 := by
    intro hzero
    have hnat := congrArg BitVec.toNat hzero
    rw [BitVec.toNat_ofNat, Nat.mod_eq_of_lt hfits] at hnat
    exact hpos.ne' hnat
  have hfinal : finalSlices (BitVec.ofNat 32 run.1.length) s.slices =
      [{ off := 0, len := BitVec.ofNat 32 run.1.length }] := by rw [hslices, finalSlices_nil]
  rw [← hfinal]
  exact if_neg (not_or.2 ⟨nofun, hframes⟩)

/-- The state that PARSE of such a file answers: the defaults, the run and one slice, and all else released or kept. -/
theorem endParse_monoParsed (s : State) (n : Nat) (run : List Sample × BitReader × Channel) :
    endParse (.ok { s.beginCommand.parseOpened.monoParsed n run with
      walker := [], slices := [{ off := 0, len := BitVec.ofNat 32 run.1.length }] }) = { s.release with
        status := { state := .done, trunc := false, short := decide (run.1.length < n), decoded := true, err := 0 }
        result := 0, pcmFrames := BitVec.ofNat 32 run.1.length, decChannels := 1, sampleRate := 44100, channels := 1
        slices := [{ off := 0, len := BitVec.ofNat 32 run.1.length }], walker := []
        br := run.2.1, ch0 := run.2.2, ch1 := Channel.initial, outMem := storeSamples s.outMem 0 run.1 } := by
  rw [State.parseOpened_beginCommand]
  rfl

/-- Settles O46: the walk of the file, then the synthesis of its one slice. -/
theorem parseSingleSdatFile : Obligations.ParseSingleSdatFile := by
  intro s n hlen hin hmin hcat hcatLen hsdat hsdatLen hmax hceiling hout hwf run hrun
  have htag : s.beginCommand.tagAt 0 = tagCat := (memRead_four_eq s 0).trans (by rw [hcat]; rfl)
  have hstart : parseStart s.beginCommand = .ok s.beginCommand.parseOpened :=
    parseStart_passed (hlen.trans_le hin) (hmin.trans_eq hlen.symm) htag
  have hfits : run.1.length < 2 ^ 32 := (monoOf_length_le s 20 n _).trans_lt (hmax.trans_lt hceiling)
  have hwalk := walk_singleSdat (s := s.beginCommand) hlen hcat hcatLen hsdat hsdatLen hmax hout
  have hend : parseBody s.beginCommand = _ :=
    (parseBody_of_walk hstart hwalk).trans (parseEnd_monoParsed (run := run) rfl hrun hfits)
  refine ⟨storeSamples s.outMem 0 run.1, ?_, holdsMono_storeSamples hwf run.1⟩
  exact congrArg Host.Outcome.next ((congrArg endParse hend).trans (endParse_monoParsed s _ run))

end Sys2Proof.Machine
end

section
/-! PROOFS. 40_bit_reader.md R111 with 41_dwop_channel.md and 42_dwop_stream.md: a sample, and the loop of a stream, depend on
the bytes of the bound slice alone. -/

namespace Sys2Proof.Machine

open Sys2Proof.Claims

variable {m m' : Memory 8} {br br' : BitReader}

/-! ## A sample reads its slice alone (R111) -/

/-- Two memories hold the same bytes in a reader's slice. -/
def SameSlice (m m' : Memory 8) (br : BitReader) : Prop :=
  ∀ a, br.base ≤ a → a < br.base + br.len → Memory.read m' a = Memory.read m a

theorem SameSlice.readsOn (h : SameSlice m m' br) (hr : ReadsOn br br') : SameSlice m m' br' := by
  obtain ⟨hbase, hlen, -⟩ := hr
  unfold SameSlice
  rwa [hbase, hlen]

theorem readBit_congr (h : SameSlice m m' br) : readBit m' br = readBit m br := by
  rw [readBit_eq, readBit_eq, bitAt_congr h]

theorem readBits_congr (h : SameSlice m m' br) (n : Nat) : readBits m' br n = readBits m br n := by
  refine Prod.ext ?_ ?_
  · rw [readBits_fst, readBits_fst, bitsValue_congr h]
  · rw [readBits_snd, readBits_snd]

theorem unaryLoop_congr (h : SameSlice m m' br) (n : Nat) (u : UnaryRegs) :
    unaryLoop m' n u br = unaryLoop m n u br := by
  induction n generalizing u br with
  | zero => rfl
  | succ n ih =>
    have hbit := bitAt_congr h br.pos
    cases hb : bitAt m br br.pos with
    | true => rw [unaryLoop_of_stop hb, unaryLoop_of_stop (hbit.trans hb)]
    | false =>
      rw [unaryLoop_of_zero hb, unaryLoop_of_zero (hbit.trans hb)]
      exact ih (h.readsOn (ReadsOn.forward br 1)) _

theorem readRemainder_congr (h : SameSlice m m' br) (cs r : Word) (nb : Int) :
    readRemainder m' cs r nb br = readRemainder m cs r nb br := by
  have hmore := readBit_congr (h.readsOn (ReadsOn.forward br nb.toNat))
  simp only [readRemainder, readBits_congr h, readBits_snd, hmore]

theorem rangeDecode_congr (h : SameSlice m m' br) (rv : Word) (ba : Int) (u : UnaryRegs) :
    rangeDecode m' rv ba u br = rangeDecode m rv ba u br := by
  unfold rangeDecode
  split
  · rfl
  · rw [readRemainder_congr h]

theorem sample_congr (h : SameSlice m m' br) (cap : Nat) (ch : Channel) : sample m' cap ch br = sample m cap ch br := by
  cases hdead : ch.dead with
  | true => rw [sample, sample, if_pos hdead, if_pos hdead]
  | false =>
    have hreads := unaryLoop_reads m cap (unaryStart ch.e) br
    rw [sample_of_live hdead, sample_of_live hdead, unaryLoop_congr h]
    rcases hloop : unaryLoop m cap (unaryStart ch.e) br with ⟨_ | u, br1⟩
    · rfl
    · rw [hloop] at hreads
      rw [afterUnary, afterUnary, rangeDecode_congr (h.readsOn hreads)]

/-! ## The run of a stream reads its slice alone (R161, R162) -/

theorem monoRun_congr (h : SameSlice m m' br) (cap n : Nat) (ch : Channel) :
    monoRun m' cap n br ch = monoRun m cap n br ch := by
  induction n generalizing br ch with
  | zero => rfl
  | succ n ih =>
    have hreads := sample_reads m cap ch br
    rw [monoRun, monoRun, sample_congr h]
    rcases hs : sample m cap ch br with ⟨br1, ch1, _ | v⟩
    · rfl
    · rw [hs] at hreads
      simp only [ih (h.readsOn hreads)]

theorem stereoRun_congr (h : SameSlice m m' br) (cap n : Nat) (c0 c1 : Channel) :
    stereoRun m' cap n br c0 c1 = stereoRun m cap n br c0 c1 := by
  induction n generalizing br c0 c1 with
  | zero => rfl
  | succ n ih =>
    have hreads := sample_reads m cap c0 br
    rw [stereoRun, stereoRun, sample_congr h]
    rcases hs : sample m cap c0 br with ⟨br1, c0', _ | l⟩
    · rfl
    · rw [hs] at hreads
      have hslice := h.readsOn hreads
      have hreads1 := sample_reads m cap c1 br1
      simp only [sample_congr hslice]
      rcases hs1 : sample m cap c1 br1 with ⟨br2, c1', _ | d⟩
      · rfl
      · rw [hs1] at hreads1
        simp only [ih (hslice.readsOn hreads1)]

/-! ## The loop of a stream -/

theorem interleave_length (l : List (Sample × Sample)) : (interleave l).length = l.length * 2 := by
  induction l with
  | nil => rfl
  | cons f rest ih =>
    rw [interleave, List.length_cons, List.length_cons, ih, List.length_cons]
    omega

theorem storeSamples_wf {m : Memory 16} (hm : Memory.wf m) (a : Nat) (l : List Sample) :
    Memory.wf (storeSamples m a l) := by
  induction l generalizing m a with
  | nil => exact hm
  | cons v rest ih => exact ih (memWrite_wf hm a v) (a + 1)

/-- The slots that samples are stored to do not depend on what OUT held. -/
theorem read_storeSamples_congr {m m' : Memory 16} (hm : Memory.wf m) (hm' : Memory.wf m') {l : List Sample} {i : Nat}
    (hi : i < l.length) : Memory.read (storeSamples m' 0 l) i = Memory.read (storeSamples m 0 l) i := by
  rw [holdsMono_storeSamples hm' l i, holdsMono_storeSamples hm l i, List.getElem?_eq_getElem hi]
  rfl

section
variable {s t : State} {off len : Nat} (hparams : t.params = s.params)
  (hslice : SameSlice s.inMem t.inMem (bindReader off len))
include hparams hslice

theorem monoOf_congr (n : Nat) : monoOf t off len n = monoOf s off len n := by
  rw [monoOf, hparams]
  exact monoRun_congr hslice _ n _

theorem stereoOf_congr (n : Nat) : stereoOf t off len n = stereoOf s off len n := by
  rw [stereoOf, hparams]
  exact stereoRun_congr hslice _ n _ _

end

theorem streamLoop_mono (s : State) (off len n : Nat) :
    s.streamLoop off len 1 n = ((monoOf s off len n).1.length, monoEnd s (monoOf s off len n)) := by
  rw [State.streamLoop, if_pos rfl, monoLoop_eq, Nat.zero_add]
  rfl

theorem streamLoop_stereo (s : State) (off len n : Nat) :
    s.streamLoop off len 2 n = ((stereoOf s off len n).1.length, stereoEnd s (stereoOf s off len n)) := by
  rw [State.streamLoop, if_neg (by decide), stereoLoop_eq, Nat.zero_add]
  rfl

/-- Two stream loops over the same bytes count the same frames and store the same samples, each in its own OUT. -/
theorem streamLoop_congr {s t : State} (hparams : t.params = s.params) {off len ch : Nat}
    (hslice : SameSlice s.inMem t.inMem (bindReader off len)) (hch : ch = 1 ∨ ch = 2) (n : Nat) :
    ∃ count l br c0 c1, l.length = count * ch ∧
      s.streamLoop off len ch n = (count, { br := br, ch0 := c0, ch1 := c1, out := storeSamples s.outMem 0 l }) ∧
      t.streamLoop off len ch n = (count, { br := br, ch0 := c0, ch1 := c1, out := storeSamples t.outMem 0 l }) := by
  rcases hch with rfl | rfl
  · rw [streamLoop_mono, streamLoop_mono, monoOf_congr hparams hslice]
    exact ⟨_, _, _, _, _, (Nat.mul_one _).symm, rfl, rfl⟩
  · rw [streamLoop_stereo, streamLoop_stereo, stereoOf_congr hparams hslice]
    exact ⟨_, _, _, _, _, interleave_length _, rfl, rfl⟩

end Sys2Proof.Machine
end

section
/-! PROOFS. 44_rex_assembler.md R232: PARSE depends on `IN[0 .. IN_LEN-1]`, `IN_LEN` and the parameters alone. -/

namespace Sys2Proof.Machine

open Sys2Proof.Claims

variable {s t u : State} {pl : Nat} {len : Word}

/-! ## Two PARSEs alike -/

/-- The state with everything that PARSE's results do not depend on taken from another. -/
def State.withUnseen (s u : State) : State :=
  { s with
    cmd := u.cmd, argOff := u.argOff, argLen := u.argLen, argN := u.argN, inMem := u.inMem, outMem := u.outMem
    br := u.br, ch0 := u.ch0, ch1 := u.ch1, work := u.work, host := u.host, hostData := u.hostData }

/-- The state inside a PARSE and another's unseen part: the same input where it is read, which is where the open levels lie,
and the same PCM, of which there is none before the first SDAT. -/
structure State.Unseen (s u : State) : Prop where
  input : ∀ a < s.inLen.toNat, Memory.read u.inMem a = Memory.read s.inMem a
  levels : ∀ l ∈ s.walker, l.stop ≤ s.inLen.toNat
  noPcm : s.status.decoded = false → s.pcmFrames = 0
  outWf : Memory.wf s.outMem
  outWf' : Memory.wf u.outMem
  pcm : ∀ i < s.pcmFrames.toNat * s.decChannels.toNat, Memory.read u.outMem i = Memory.read s.outMem i

/-- Two PARSEs alike so far: they differ in the unseen part alone. -/
def ParseAlike (s t : State) : Prop := ∃ u, t = s.withUnseen u ∧ s.Unseen u

/-! ## Reads of the input -/

theorem memRead_congr {m m' : Memory 8} {a n : Nat} (h : ∀ i < n, Memory.read m' (a + i) = Memory.read m (a + i)) :
    memRead m' a n = memRead m a n := by
  induction n with
  | zero => rfl
  | succ n ih => rw [memRead, memRead, ih fun i hi => h i (by omega), h n (by omega)]

theorem State.Unseen.memRead (h : s.Unseen u) {a n : Nat} (hin : a + n ≤ s.inLen.toNat) :
    memRead u.inMem a n = memRead s.inMem a n :=
  memRead_congr fun i hi => h.input (a + i) (by omega)

/-- The innermost level lies in the input. -/
theorem State.Unseen.inside (h : s.Unseen u) {a : Nat} (hin : s.Inside a) : a ≤ s.inLen.toNat := by
  obtain ⟨l, rest, hwalker, hle⟩ := hin
  exact hle.trans (h.levels l (hwalker ▸ List.mem_cons_self))

theorem State.Unseen.slice (h : s.Unseen u) {off n : Nat} (hin : off + n ≤ s.inLen.toNat) :
    SameSlice s.inMem u.inMem (bindReader off n) :=
  fun a _ ha => h.input a (lt_of_lt_of_le ha hin)

/-! ## The walk (R180 to R203) -/

theorem headerAt_withUnseen (h : s.Unseen u) {l : Level} (hl : l ∈ s.walker) :
    (s.withUnseen u).headerAt l = s.headerAt l := by
  have hstop := h.levels l hl
  unfold State.headerAt
  by_cases hends : l.stop < l.pos + 8
  · rw [if_pos hends, if_pos hends]
  · have htag : (s.withUnseen u).tagAt l.pos = s.tagAt l.pos := h.memRead (by omega)
    have hlen : (s.withUnseen u).lenAt l.pos = s.lenAt l.pos := h.memRead (by omega)
    rw [if_neg hends, if_neg hends, htag, hlen]

/-- A field extractor that answers alike keeps two PARSEs alike. -/
theorem ParseAlike.of_fields {s' t' : State} (h : s.Unseen u) (hf : SameButFields s s') (ht : t' = s'.withUnseen u) :
    ParseAlike s' t' := by
  refine ⟨u, ht, ?_⟩
  rw [hf]
  exact { h with }

theorem globStep_withUnseen (h : s.Unseen u) (hin : pl + len.toNat ≤ s.inLen.toNat) :
    globStep pl len (s.withUnseen u) = (globStep pl len s).withUnseen u := by
  by_cases hlen : len.toNat < 20
  · rw [globStep_short hlen, globStep_short hlen]
  · have h4 : memRead u.inMem (pl + 4) 2 = _ := h.memRead (by omega)
    have h6 : memRead u.inMem (pl + 6) 1 = _ := h.memRead (by omega)
    have h7 : memRead u.inMem (pl + 7) 1 = _ := h.memRead (by omega)
    have h8 : memRead u.inMem (pl + 8) 1 = _ := h.memRead (by omega)
    have h16 : memRead u.inMem (pl + 16) 4 = _ := h.memRead (by omega)
    simp only [globStep, if_neg hlen, State.withUnseen, h4, h6, h7, h8, h16]

theorem headStep_withUnseen (h : s.Unseen u) (hin : pl + len.toNat ≤ s.inLen.toNat) :
    headStep pl len (s.withUnseen u) = (headStep pl len s).withUnseen u := by
  by_cases hlen : len.toNat < 6
  · rw [headStep_short hlen, headStep_short hlen]
  · have h5 : memRead u.inMem (pl + 5) 1 = _ := h.memRead (by omega)
    simp only [headStep, if_neg hlen, State.withUnseen, h5]

theorem sinfStep_withUnseen (h : s.Unseen u) (hin : pl + len.toNat ≤ s.inLen.toNat) :
    sinfStep pl len (s.withUnseen u) = (sinfStep pl len s).withUnseen u := by
  by_cases hlen : len.toNat < 10
  · rw [sinfStep_short hlen, sinfStep_short hlen]
  · have h0 : memRead u.inMem pl 1 = _ := h.memRead (by omega)
    have h4 : memRead u.inMem (pl + 4) 2 = _ := h.memRead (by omega)
    have h6 : memRead u.inMem (pl + 6) 4 = _ := h.memRead (by omega)
    simp only [sinfStep, if_neg hlen, State.withUnseen, h0, h4, h6]

theorem slceStep_withUnseen (h : s.Unseen u) (hin : pl + len.toNat ≤ s.inLen.toNat) :
    slceStep pl len (s.withUnseen u) = (slceStep pl len s).withUnseen u := by
  by_cases hlen : len.toNat < 8
  · rw [slceStep_skips (.inl hlen), slceStep_skips (.inl hlen)]
  · have h0 : memRead u.inMem pl 4 = _ := h.memRead (by omega)
    have h4 : memRead u.inMem (pl + 4) 4 = _ := h.memRead (by omega)
    simp only [slceStep, if_neg hlen, State.withUnseen, h0, h4]
    split_ifs <;> rfl

/-- The state from which the first SDAT runs its stream has no PCM yet. -/
theorem State.Unseen.sdatStart (h : s.Unseen u) (hfirst : s.status.decoded = false) : s.sdatStart.Unseen u where
  input := h.input
  levels := h.levels
  noPcm := nofun
  outWf := h.outWf
  outWf' := h.outWf'
  pcm i hi := by
    have hnone : s.sdatStart.pcmFrames.toNat = 0 := congrArg BitVec.toNat (h.noPcm hfirst)
    rw [hnone, Nat.zero_mul] at hi
    exact absurd hi (Nat.not_lt_zero i)

/-- Streams that stored the same samples leave the PARSEs alike, with any count of frames stored (R163, R224). -/
theorem State.Unseen.streamEnd (h : s.Unseen u) (hdecoded : s.status.decoded = true) {n count : Nat} {l : List Sample}
    (hl : l.length = count * s.decChannels.toNat) {frames : Word} (hframes : frames.toNat ≤ count) (br : BitReader)
    (c0 c1 : Channel) :
    ParseAlike
      { s.streamEnd n count { br := br, ch0 := c0, ch1 := c1, out := storeSamples s.outMem 0 l } with
        pcmFrames := frames }
      { (s.withUnseen u).streamEnd n count { br := br, ch0 := c0, ch1 := c1, out := storeSamples u.outMem 0 l } with
        pcmFrames := frames } := by
  refine ⟨{ u with br := br, ch0 := c0, ch1 := c1, outMem := storeSamples u.outMem 0 l }, rfl, ?_⟩
  refine { h with
    noPcm := fun hfirst => absurd (hdecoded.symm.trans hfirst) (by decide)
    outWf := storeSamples_wf h.outWf 0 l
    outWf' := storeSamples_wf h.outWf' 0 l
    pcm := fun i hi => ?_ }
  have hin : i < l.length := hl ▸ lt_of_lt_of_le hi (Nat.mul_le_mul_right _ hframes)
  exact read_storeSamples_congr h.outWf h.outWf' hin

theorem sdatDecode_alike (h : s.Unseen u) (hfirst : s.status.decoded = false) (hin : pl + len.toNat ≤ s.inLen.toNat) :
    (sdatDecode pl len s).Relates ParseAlike (sdatDecode pl len (s.withUnseen u)) := by
  have hstart := h.sdatStart hfirst
  have hzero : s.sdatStart.pcmFrames.toNat = 0 := congrArg BitVec.toNat (h.noPcm hfirst)
  refine sdatDecode_relates rfl rfl rfl ⟨u, rfl, { h with noPcm := nofun }⟩ ⟨u, rfl, hstart⟩ fun hch => ?_
  have hch' : s.channels.toNat = 1 ∨ s.channels.toNat = 2 := hch.imp (congrArg BitVec.toNat) (congrArg BitVec.toNat)
  obtain ⟨count, l, br, c0, c1, hl, hs, ht⟩ :=
    streamLoop_congr (s := s.sdatStart) (t := s.sdatStart.withUnseen u) rfl (hstart.slice hin) hch' (framesOf s len)
  exact ⟨count, _, _, hs, ht, hstart.streamEnd rfl hl (hzero.trans_le (Nat.zero_le count)) br c0 c1,
    hstart.streamEnd rfl hl (toNat_ofNat_le count) br c0 c1⟩

theorem sdatStep_alike (h : s.Unseen u) (hin : pl + len.toNat ≤ s.inLen.toNat) :
    (sdatStep pl len s).Relates ParseAlike (sdatStep pl len (s.withUnseen u)) := by
  cases hfirst : s.status.decoded with
  | true =>
    rw [sdatStep_of_decoded hfirst, sdatStep_of_decoded (s := s.withUnseen u) hfirst]
    exact .ok ⟨u, rfl, h⟩
  | false =>
    rw [sdatStep_of_first hfirst, sdatStep_of_first (s := s.withUnseen u) hfirst]
    exact sdatDecode_alike h hfirst hin

theorem State.Unseen.advance (h : s.Unseen u) (len : Word) : (s.advance len).Unseen u := by
  cases hw : s.walker with
  | nil =>
    have hstay : s.advance len = s := by simp only [State.advance, hw]
    rwa [hstay]
  | cons l rest =>
    rw [State.advance_eq hw]
    have hlevels := h.levels
    rw [hw, List.forall_mem_cons] at hlevels
    exact { h with levels := List.forall_mem_cons.2 hlevels }

theorem walkRelates_parseAlike : WalkRelates ParseAlike where
  walker := by rintro s _ ⟨u, rfl, -⟩; rfl
  header := by
    rintro s _ l rest ⟨u, rfl, h⟩ hwalker
    exact headerAt_withUnseen h (hwalker ▸ List.mem_cons_self)
  push := by
    rintro s _ a b ⟨u, rfl, h⟩ hin
    exact ⟨u, rfl, { h with levels := List.forall_mem_cons.2 ⟨h.inside hin, h.levels⟩ }⟩
  pop := by
    rintro s _ ⟨u, rfl, h⟩
    exact ⟨u, rfl, { h with levels := fun l hl => h.levels l (List.mem_of_mem_tail hl) }⟩
  trunc := by rintro s _ ⟨u, rfl, h⟩; exact ⟨u, rfl, { h with }⟩
  advance := by
    rintro s _ len ⟨u, rfl, h⟩
    refine ⟨u, ?_, h.advance len⟩
    unfold State.advance State.withUnseen
    dsimp only
    split <;> rfl
  glob := by
    rintro s _ pl len ⟨u, rfl, h⟩ hin
    exact .of_fields h (globStep_frame pl len s) (globStep_withUnseen h (h.inside hin))
  head := by
    rintro s _ pl len ⟨u, rfl, h⟩ hin
    exact .of_fields h (headStep_frame pl len s) (headStep_withUnseen h (h.inside hin))
  sinf := by
    rintro s _ pl len ⟨u, rfl, h⟩ hin
    exact .of_fields h (sinfStep_frame pl len s) (sinfStep_withUnseen h (h.inside hin))
  slce := by
    rintro s _ pl len ⟨u, rfl, h⟩ hin
    exact .of_fields h (slceStep_frame pl len s) (slceStep_withUnseen h (h.inside hin))
  sdat := by rintro s _ pl len ⟨u, rfl, h⟩ hin; exact sdatStep_alike h (h.inside hin)

/-! ## The whole PARSE (R221, R232) -/

/-- What two PARSEs begin with: equal parameters, equal `IN_LEN`, the same bytes below it, and canonical OUTs. -/
structure SameFile (s t : State) : Prop where
  params : s.params = t.params
  inLen : s.inLen = t.inLen
  input : ∀ a < s.inLen.toNat, Memory.read s.inMem a = Memory.read t.inMem a
  outWf : Memory.wf s.outMem
  outWf' : Memory.wf t.outMem

theorem SameFile.opened (h : SameFile s t) : ParseAlike s.beginCommand.parseOpened t.beginCommand.parseOpened := by
  rw [State.parseOpened_beginCommand, State.parseOpened_beginCommand]
  refine ⟨t, ?_, ?_⟩
  · simp only [State.withUnseen, State.release, h.params, h.inLen]
  · exact {
      input := fun a ha => (h.input a ha).symm
      levels := List.forall_mem_singleton.2 le_rfl
      noPcm := fun _ => rfl
      outWf := h.outWf
      outWf' := h.outWf'
      pcm := fun i hi => absurd hi (Nat.not_lt_zero i) }

/-- The pre-checks of two PARSEs of the same file fail alike, or pass alike (R222). -/
theorem SameFile.parseStart (h : SameFile s t) (hmin : 4 ≤ s.params.minFileBytes) :
    (∃ e, parseStart s.beginCommand = .raised e s.beginCommand.parseCleared ∧
      parseStart t.beginCommand = .raised e t.beginCommand.parseCleared) ∨
    (parseStart s.beginCommand = .ok s.beginCommand.parseOpened ∧
      parseStart t.beginCommand = .ok t.beginCommand.parseOpened) := by
  have hparams : t.beginCommand.params = s.beginCommand.params := h.params.symm
  have hinLen : t.beginCommand.inLen = s.beginCommand.inLen := h.inLen.symm
  rw [parseStart_eq, parseStart_eq, hparams, hinLen]
  by_cases hlen : s.beginCommand.params.inSize < s.beginCommand.inLen.toNat
  · rw [if_pos hlen, if_pos hlen]
    exact .inl ⟨_, rfl, rfl⟩
  by_cases hsmall : s.beginCommand.inLen.toNat < s.beginCommand.params.minFileBytes
  · rw [if_neg hlen, if_pos hsmall, if_neg hlen, if_pos hsmall]
    exact .inl ⟨_, rfl, rfl⟩
  have hfour : 4 ≤ s.inLen.toNat := hmin.trans (not_lt.1 hsmall)
  have htag : t.beginCommand.tagAt 0 = s.beginCommand.tagAt 0 :=
    memRead_congr fun i hi => (h.input (0 + i) (by omega)).symm
  rw [if_neg hlen, if_neg hsmall, if_neg hlen, if_neg hsmall, htag]
  by_cases hcat : s.beginCommand.tagAt 0 ≠ tagCat
  · rw [if_pos hcat, if_pos hcat]
    exact .inl ⟨_, rfl, rfl⟩
  · rw [if_neg hcat, if_neg hcat]
    exact .inr ⟨rfl, rfl⟩

theorem parseEnd_alike (h : ParseAlike s t) : (parseEnd s).Relates ParseAlike (parseEnd t) := by
  obtain ⟨u, rfl, h⟩ := h
  by_cases hnone : s.status.decoded = false ∨ s.pcmFrames = 0
  · have hs : parseEnd s = .raised .noAudio s := if_pos hnone
    have ht : parseEnd (s.withUnseen u) = .raised .noAudio (s.withUnseen u) := if_pos hnone
    rw [hs, ht]
    exact .raised _ ⟨u, rfl, h⟩
  · have hs : parseEnd s = .ok { s with slices := finalSlices s.pcmFrames s.slices } := if_neg hnone
    have ht : parseEnd (s.withUnseen u) =
        .ok { s.withUnseen u with slices := finalSlices s.pcmFrames s.slices } := if_neg hnone
    rw [hs, ht]
    exact .ok ⟨u, rfl, { h with }⟩

theorem parseBody_alike (hs : parseStart s = .ok s.parseOpened) (ht : parseStart t = .ok t.parseOpened)
    (hlen : t.inLen = s.inLen) (h : ParseAlike s.parseOpened t.parseOpened) :
    (parseBody s).Relates ParseAlike (parseBody t) := by
  have hwalk := walkRelates_parseAlike.walk (s.inLen.toNat + 1) h
  generalize hws : walk (s.inLen.toNat + 1) s.parseOpened = r at hwalk
  generalize hwt : walk (s.inLen.toNat + 1) t.parseOpened = r' at hwalk
  rw [← hlen] at hwt
  cases hwalk with
  | raised e h' =>
    rw [parseBody_of_raised hs hws, parseBody_of_raised ht hwt]
    exact .raised e h'
  | ok h' =>
    rw [parseBody_of_walk hs hws, parseBody_of_walk ht hwt]
    exact parseEnd_alike h'

/-- What a host reads of a finished PARSE: the registers, the slice table and the PCM. -/
def SameOutcome (s t : State) : Prop := SameResults s t ∧ s.pcm = t.pcm

theorem State.Unseen.pcm_eq (h : s.Unseen u) : s.pcm = (s.withUnseen u).pcm :=
  List.map_congr_left fun i hi => (h.pcm i (List.mem_range.1 hi)).symm

theorem endParse_alike {r r' : CmdResult} (h : r.Relates ParseAlike r') : SameOutcome (endParse r) (endParse r') := by
  cases h with
  | raised e h =>
    obtain ⟨u, rfl, -⟩ := h
    exact ⟨⟨rfl, rfl, rfl, rfl, rfl, rfl, rfl, rfl, rfl, rfl, rfl, rfl⟩, rfl⟩
  | ok h =>
    obtain ⟨u, rfl, h⟩ := h
    exact ⟨⟨rfl, rfl, rfl, rfl, rfl, rfl, rfl, rfl, rfl, rfl, rfl, rfl⟩, h.pcm_eq⟩

/-- Two PARSEs of the same file have the same outcome (R232). -/
theorem SameFile.parse (h : SameFile s t) (hmin : 4 ≤ s.params.minFileBytes) {s' t' : State}
    (hs : exec .parse s = .next s') (ht : exec .parse t = .next t') : SameOutcome s' t' := by
  rcases h.parseStart hmin with ⟨e, hfails, hfailt⟩ | ⟨hpass, hpast⟩
  · rw [exec_parse_of_failed hfails] at hs
    rw [exec_parse_of_failed hfailt] at ht
    injection hs with hs
    injection ht with ht
    subst hs ht
    exact ⟨⟨rfl, rfl, rfl, rfl, rfl, rfl, rfl, rfl, rfl, rfl, rfl, rfl⟩, rfl⟩
  · injection hs with hs
    injection ht with ht
    subst hs ht
    exact endParse_alike (parseBody_alike hpass hpast h.inLen.symm h.opened)

/-- Settles O51: the two walks go on alike, and a DESTROY after a DESTROY writes what is there. -/
theorem parseDependsOnInputAlone : Obligations.ParseDependsOnInputAlone := by
  constructor
  · intro s t s' t' hvalid hparams hinLen hinput hwf hwf' hs ht
    obtain ⟨-, hmin, -⟩ := hvalid
    exact SameFile.parse ⟨hparams, hinLen, hinput, hwf, hwf'⟩ hmin hs ht
  · intro s t u ht hu
    rw [destroyReleases] at ht hu
    injection ht with ht
    injection hu with hu
    subst ht hu
    rfl

end Sys2Proof.Machine
end

section
/-! PROOFS. 30_encoding.md R83 with 60_exceptions.md R260: the illegal command words, and what a write of one does. -/

namespace Sys2Proof

open Sys2Proof.Machine Sys2Proof.Claims

variable {opc : Byte} {w : Word}

/-! ## The opcodes of R81 -/

theorem decodeOpcode_noOperand (h : opc ∈ noOperandOpcodes) :
    ∃ i, isCommand i = true ∧ ∀ opd, decodeOpcode opc opd = noOperand opd i := by
  simp only [noOperandOpcodes, List.mem_cons, List.not_mem_nil, or_false] at h
  rcases h with rfl | rfl | rfl | rfl | rfl | rfl
  · exact ⟨.parse, rfl, fun _ => rfl⟩
  · exact ⟨.destroy, rfl, fun _ => rfl⟩
  · exact ⟨.decodeMono, rfl, fun _ => rfl⟩
  · exact ⟨.decodeStereo, rfl, fun _ => rfl⟩
  · exact ⟨.brInit, rfl, fun _ => rfl⟩
  · exact ⟨.brReadBit, rfl, fun _ => rfl⟩

theorem decodeOpcode_operand (h : opc ∈ operandOpcodes) (opd : Byte) :
    ∃ i, decodeOpcode opc opd = .ok i ∧ isCommand i = true := by
  simp only [operandOpcodes, List.mem_cons, List.not_mem_nil, or_false] at h
  rcases h with rfl | rfl | rfl
  · exact ⟨.brReadBits opd, rfl, rfl⟩
  · exact ⟨.chInit opd, rfl, rfl⟩
  · exact ⟨.chDecodeSample opd, rfl, rfl⟩

theorem decodeOpcode_unknown (h : opc ∉ noOperandOpcodes ++ operandOpcodes) (opd : Byte) :
    decodeOpcode opc opd = .error .unknownOpcode := by
  simp only [noOperandOpcodes, operandOpcodes, List.cons_append, List.nil_append, List.mem_cons, List.not_mem_nil,
    or_false, not_or] at h
  simp only [decodeOpcode, h, if_false]

/-! ## The command words -/

/-- R83: each of the three causes keeps a word from decoding. -/
theorem decodeCommand_of_illegal (h : IllegalWord w) : ∃ e, decodeCommand w = .error e := by
  unfold decodeCommand
  by_cases hrsv : w.extractLsb' 16 16 = 0
  · rw [if_pos hrsv]
    rcases h with hne | hunknown | ⟨hopc, hopd⟩
    · exact absurd hrsv hne
    · exact ⟨_, decodeOpcode_unknown hunknown _⟩
    · obtain ⟨i, -, hdec⟩ := decodeOpcode_noOperand hopc
      exact ⟨.operandNotZero, (hdec _).trans (if_neg hopd)⟩
  · exact ⟨.reservedBits, if_neg hrsv⟩

theorem decodeCommand_of_legal (h : ¬ IllegalWord w) : ∃ i, decodeCommand w = .ok i ∧ isCommand i = true := by
  obtain ⟨hrsv, hknown, hoperand⟩ : w.extractLsb' 16 16 = 0 ∧
      w.extractLsb' 0 8 ∈ noOperandOpcodes ++ operandOpcodes ∧
      (w.extractLsb' 0 8 ∈ noOperandOpcodes → w.extractLsb' 8 8 = 0) := by
    simpa only [IllegalWord, not_or, not_not, not_and] using h
  rw [decodeCommand, if_pos hrsv]
  rcases List.mem_append.1 hknown with hopc | hopc
  · obtain ⟨i, hi, hdec⟩ := decodeOpcode_noOperand hopc
    exact ⟨i, (hdec _).trans (if_pos (hoperand hopc)), hi⟩
  · exact decodeOpcode_operand hopc _

theorem isCommand_of_decodeCommand {i : Instr} (h : decodeCommand w = .ok i) : isCommand i = true := by
  by_cases hw : IllegalWord w
  · obtain ⟨e, he⟩ := decodeCommand_of_illegal hw
    rw [he] at h
    cases h
  · obtain ⟨j, hj, hcommand⟩ := decodeCommand_of_legal hw
    rw [hj] at h
    injection h with h
    exact h ▸ hcommand

/-- Settles O10: the step is the host's access, which raises for a word that does not decode. -/
theorem illegalWordRaisesBadCommand : Obligations.IllegalWordRaisesBadCommand := by
  refine ⟨fun s w rest hwork hidle hhost hw => ?_, fun w hw => decodeCommand_of_legal hw⟩
  obtain ⟨e, hdec⟩ := decodeCommand_of_illegal hw
  calc step s = issueCommand w { s with host := rest } := step_hostAccess hwork hhost
    _ = .next (({ s with host := rest, cmd := w }.beginCommand).raise .badCommand) := by
      simp only [issueCommand, hidle, if_false, hdec]
    _ = .next { s with host := rest, cmd := w, status := errorStatus s.status 8 } := rfl

end Sys2Proof
end

section
/-! PROOFS. 60_exceptions.md R269 with 20_memory.md R63 and R71: a step from a good state ends, writes OUT inside its bounds,
and goes on alike from another IN that agrees where a command may read. -/

namespace Sys2Proof.Machine

open Sys2Proof.Claims

variable {s t : State} {m : Memory 8}

/-! ## Another IN -/

/-- The state with other contents of IN. -/
def State.withIn (s : State) (m : Memory 8) : State := { s with inMem := m }

/-- Two outcomes alike: a next state, and the same one with the other IN. -/
def AnswersAlike (m : Memory 8) (o o' : Host.Outcome State Fault Refusal) : Prop :=
  ∃ t : State, o = .next t ∧ o' = .next (t.withIn m)

/-- Another IN that agrees wherever a command may read. -/
def State.ReadsAlike (s : State) (m : Memory 8) : Prop := ∀ a, s.MayRead a → Memory.read m a = Memory.read s.inMem a

theorem State.ReadsAlike.input (h : s.ReadsAlike m) (hlen : s.inLen.toNat ≤ s.params.inSize) :
    ∀ a < s.inLen.toNat, Memory.read m a = Memory.read s.inMem a :=
  fun a ha => h a ⟨ha.trans_le hlen, .inl ha⟩

/-- The bound slice is empty or lies in IN (R71), so a command may read all of it. -/
theorem State.ReadsAlike.slice (h : s.ReadsAlike m) (hreader : s.readerOk = true) : SameSlice s.inMem m s.br := by
  intro a hbase hend
  rcases State.readerOk_iff.1 hreader with hempty | hin
  · omega
  · exact h a ⟨by omega, .inr ⟨hbase, hend⟩⟩

theorem State.setChan_withIn (s : State) (m : Memory 8) (c : Chan) (x : Channel) :
    (s.withIn m).setChan c x = (s.setChan c x).withIn m := by
  cases c <;> rfl

theorem State.chan_withIn (s : State) (m : Memory 8) (c : Chan) : (s.withIn m).chan c = s.chan c := by
  cases c <;> rfl

/-! ## The reader and channel commands -/

theorem exec_brInit_withIn (s : State) (m : Memory 8) :
    AnswersAlike m (exec .brInit s) (exec .brInit (s.withIn m)) := by
  by_cases hok : s.argSliceOk = true
  · exact ⟨_, exec_brInit_inside hok, exec_brInit_inside (s := s.withIn m) hok⟩
  · exact ⟨_, exec_brInit_outside hok, exec_brInit_outside (s := s.withIn m) hok⟩

theorem exec_brReadBit_withIn (hm : s.ReadsAlike m) (hreader : s.readerOk = true) :
    AnswersAlike m (exec .brReadBit s) (exec .brReadBit (s.withIn m)) := by
  have hbit : bitAt (s.withIn m).inMem (s.withIn m).br (s.withIn m).br.pos = bitAt s.inMem s.br s.br.pos :=
    bitAt_congr (hm.slice hreader) _
  refine ⟨_, exec_brReadBit hreader, ?_⟩
  rw [exec_brReadBit (s := s.withIn m) hreader, hbit]
  rfl

theorem exec_brReadBits_withIn (hm : s.ReadsAlike m) (hreader : s.readerOk = true) (n : Byte) :
    AnswersAlike m (exec (.brReadBits n) s) (exec (.brReadBits n) (s.withIn m)) := by
  by_cases hn : n.toNat ≤ 32
  · have hbits : readBits (s.withIn m).inMem (s.withIn m).br n.toNat = readBits s.inMem s.br n.toNat :=
      readBits_congr (hm.slice hreader) _
    refine ⟨_, exec_brReadBits hn hreader, ?_⟩
    rw [exec_brReadBits (s := s.withIn m) hn hreader, hbits]
    rfl
  · exact ⟨_, exec_brReadBits_large (not_le.1 hn), exec_brReadBits_large (s := s.withIn m) (not_le.1 hn)⟩

theorem exec_chInit_withIn (s : State) (m : Memory 8) (c : Byte) :
    AnswersAlike m (exec (.chInit c) s) (exec (.chInit c) (s.withIn m)) := by
  show AnswersAlike m (execChInit c s) (execChInit c (s.withIn m))
  unfold execChInit
  rcases chanOf c with _ | ch
  · exact ⟨_, rfl, rfl⟩
  · cases ch <;> exact ⟨_, rfl, rfl⟩

theorem State.sampleEnd_withIn (s : State) (m : Memory 8) (c : Chan) (out : SampleOut) :
    (s.withIn m).sampleEnd c out = (s.sampleEnd c out).withIn m := by
  unfold State.sampleEnd
  rw [State.setChan_withIn]
  split <;> rfl

theorem exec_chDecodeSample_withIn (hm : s.ReadsAlike m) (hreader : s.readerOk = true) (op : Byte) :
    AnswersAlike m (exec (.chDecodeSample op) s) (exec (.chDecodeSample op) (s.withIn m)) := by
  cases hop : chanOf op with
  | none =>
    have hlarge := (chanOf_eq_none_iff op).1 hop
    obtain ⟨-, -, hbad⟩ := deadChannelFailsAtOnce
    exact ⟨_, hbad s op hlarge, hbad (s.withIn m) op hlarge⟩
  | some c =>
    have hsample : sample (s.withIn m).inMem (s.withIn m).params.unaryCap ((s.withIn m).chan c) (s.withIn m).br =
        sample s.inMem s.params.unaryCap (s.chan c) s.br := by
      rw [State.chan_withIn]
      exact sample_congr (hm.slice hreader) _ _
    refine ⟨_, exec_chDecodeSample hop (.inr hreader), ?_⟩
    rw [exec_chDecodeSample (s := s.withIn m) hop (.inr hreader), hsample, State.sampleEnd_withIn]

/-! ## The decode commands (R164, R165) -/

theorem streamLoop_withIn {off len ch : Nat} (hslice : SameSlice s.inMem m (bindReader off len)) (hch : ch = 1 ∨ ch = 2)
    (n : Nat) : (s.withIn m).streamLoop off len ch n = s.streamLoop off len ch n := by
  obtain ⟨count, l, br, c0, c1, -, hs, ht⟩ := streamLoop_congr (s := s) (t := s.withIn m) rfl hslice hch n
  rw [hs, ht]
  rfl

theorem endCommand_decodeBody_withIn (hm : s.ReadsAlike m) {ch : Nat} (hch : ch = 1 ∨ ch = 2) :
    endCommand (decodeBody ch (s.withIn m).beginCommand) = (endCommand (decodeBody ch s.beginCommand)).withIn m := by
  by_cases hok : s.inLen.toNat ≤ s.params.inSize ∧ s.argOff.toNat + s.argLen.toNat ≤ s.inLen.toNat ∧
      ch * s.argN.toNat ≤ s.params.outSize
  · obtain ⟨hlen, hslice, hframes⟩ := hok
    have hsame : SameSlice s.inMem m (bindReader s.argOff.toNat s.argLen.toNat) :=
      fun a _ ha => hm.input hlen a (lt_of_lt_of_le ha hslice)
    have hloop : (s.withIn m).beginCommand.release.clearFlags.streamLoop s.argOff.toNat s.argLen.toNat ch s.argN.toNat =
        s.beginCommand.release.clearFlags.streamLoop s.argOff.toNat s.argLen.toNat ch s.argN.toNat :=
      streamLoop_withIn (s := s.beginCommand.release.clearFlags) hsame hch s.argN.toNat
    have hstream := stream_eq (s.withIn m).beginCommand.release.clearFlags s.argOff.toNat s.argLen.toNat ch s.argN.toNat
    rw [hloop] at hstream
    rw [endCommand_decodeBody_inside hlen hslice hframes (stream_eq _ _ _ _ _),
      endCommand_decodeBody_inside (s := s.withIn m) hlen hslice hframes hstream]
    rfl
  · have hbad : s.params.inSize < s.inLen.toNat ∨ s.inLen.toNat < s.argOff.toNat + s.argLen.toNat ∨
        s.params.outSize < ch * s.argN.toNat := by omega
    rw [endCommand_decodeBody_outside hbad, endCommand_decodeBody_outside (s := s.withIn m) hbad]
    rfl

/-! ## PARSE (R221) -/

/-- What the state inside a PARSE needs to go on alike from another IN: the same input, in which the open levels lie, and what
`State.Unseen` asks of the state itself. -/
structure State.AgreesOnInput (s : State) (m : Memory 8) : Prop where
  input : ∀ a < s.inLen.toNat, Memory.read m a = Memory.read s.inMem a
  levels : ∀ l ∈ s.walker, l.stop ≤ s.inLen.toNat
  noPcm : s.status.decoded = false → s.pcmFrames = 0
  outWf : Memory.wf s.outMem

/-- An IN that differs outside the input is unseen (R232). -/
theorem State.AgreesOnInput.unseen (h : s.AgreesOnInput m) : s.Unseen (s.withIn m) where
  input := h.input
  levels := h.levels
  noPcm := h.noPcm
  outWf := h.outWf
  outWf' := h.outWf
  pcm _ _ := rfl

theorem State.Unseen.agreesOnInput {u : State} (h : s.Unseen u) : s.AgreesOnInput u.inMem := { h with }

/-- Two PARSEs alike so far that differ in IN alone. -/
def InputAlike (m : Memory 8) (s t : State) : Prop := t = s.withIn m ∧ s.AgreesOnInput m

theorem State.withUnseen_withIn (s : State) (m : Memory 8) : s.withUnseen (s.withIn m) = s.withIn m := rfl

/-- A field extractor that does not read what is unseen does not tell the two INs apart. -/
theorem State.AgreesOnInput.extractor (h : s.AgreesOnInput m) {f : State → State} (hframe : SameButFields s (f s))
    (hunseen : f (s.withUnseen (s.withIn m)) = (f s).withUnseen (s.withIn m)) : InputAlike m (f s) (f (s.withIn m)) := by
  rw [State.withUnseen_withIn] at hunseen
  rw [hunseen, hframe]
  exact ⟨rfl, { h with }⟩

/-- A stream that stored the same samples from another IN leaves the PARSEs alike, with any count of frames stored. -/
theorem State.AgreesOnInput.streamEnd (h : s.AgreesOnInput m) (hdecoded : s.status.decoded = true) (n count : Nat)
    (l : List Sample) (br : BitReader) (c0 c1 : Channel) (frames : Word) :
    InputAlike m
      { s.streamEnd n count { br := br, ch0 := c0, ch1 := c1, out := storeSamples s.outMem 0 l } with
        pcmFrames := frames }
      { (s.withIn m).streamEnd n count { br := br, ch0 := c0, ch1 := c1, out := storeSamples s.outMem 0 l } with
        pcmFrames := frames } :=
  ⟨rfl, { h with
    noPcm := fun hfirst => absurd (hdecoded.symm.trans hfirst) (by decide)
    outWf := storeSamples_wf h.outWf 0 l }⟩

theorem sdatStep_inputAlike (h : s.AgreesOnInput m) {pl : Nat} {len : Word} (hin : pl + len.toNat ≤ s.inLen.toNat) :
    (sdatStep pl len s).Relates (InputAlike m) (sdatStep pl len (s.withIn m)) := by
  cases hfirst : s.status.decoded with
  | true =>
    rw [sdatStep_of_decoded hfirst, sdatStep_of_decoded (s := s.withIn m) hfirst]
    exact .ok ⟨rfl, h⟩
  | false =>
    rw [sdatStep_of_first hfirst, sdatStep_of_first (s := s.withIn m) hfirst]
    have hstart : s.sdatStart.AgreesOnInput m := (h.unseen.sdatStart hfirst).agreesOnInput
    refine sdatDecode_relates rfl rfl rfl ⟨rfl, { h with noPcm := nofun }⟩ ⟨rfl, hstart⟩ fun hch => ?_
    have hch' : s.channels.toNat = 1 ∨ s.channels.toNat = 2 := hch.imp (congrArg BitVec.toNat) (congrArg BitVec.toNat)
    obtain ⟨count, l, br, c0, c1, -, hs, ht⟩ :=
      streamLoop_congr (s := s.sdatStart) (t := s.sdatStart.withIn m) rfl (hstart.unseen.slice hin) hch' (framesOf s len)
    exact ⟨count, _, _, hs, ht, hstart.streamEnd rfl _ count l br c0 c1 _, hstart.streamEnd rfl _ count l br c0 c1 _⟩

theorem walkRelates_inputAlike : WalkRelates (InputAlike m) where
  walker := by rintro s _ ⟨rfl, -⟩; rfl
  header := by
    rintro s _ l rest ⟨rfl, h⟩ hwalker
    exact headerAt_withUnseen h.unseen (hwalker ▸ List.mem_cons_self)
  push := by
    rintro s _ a b ⟨rfl, h⟩ hin
    exact ⟨rfl, { h with levels := List.forall_mem_cons.2 ⟨h.unseen.inside hin, h.levels⟩ }⟩
  pop := by
    rintro s _ ⟨rfl, h⟩
    exact ⟨rfl, { h with levels := fun l hl => h.levels l (List.mem_of_mem_tail hl) }⟩
  trunc := by rintro s _ ⟨rfl, h⟩; exact ⟨rfl, { h with }⟩
  advance := by
    rintro s _ len ⟨rfl, h⟩
    refine ⟨?_, (h.unseen.advance len).agreesOnInput⟩
    unfold State.advance State.withIn
    dsimp only
    split <;> rfl
  glob := by
    rintro s _ pl len ⟨rfl, h⟩ hin
    exact h.extractor (globStep_frame pl len s) (globStep_withUnseen h.unseen (h.unseen.inside hin))
  head := by
    rintro s _ pl len ⟨rfl, h⟩ hin
    exact h.extractor (headStep_frame pl len s) (headStep_withUnseen h.unseen (h.unseen.inside hin))
  sinf := by
    rintro s _ pl len ⟨rfl, h⟩ hin
    exact h.extractor (sinfStep_frame pl len s) (sinfStep_withUnseen h.unseen (h.unseen.inside hin))
  slce := by
    rintro s _ pl len ⟨rfl, h⟩ hin
    exact h.extractor (slceStep_frame pl len s) (slceStep_withUnseen h.unseen (h.unseen.inside hin))
  sdat := by
    rintro s _ pl len ⟨rfl, h⟩ hin
    exact sdatStep_inputAlike h (h.unseen.inside hin)

theorem endParse_parseEnd_withIn (s : State) (m : Memory 8) :
    endParse (parseEnd (s.withIn m)) = (endParse (parseEnd s)).withIn m := by
  unfold parseEnd State.withIn
  dsimp only
  split_ifs <;> rfl

theorem endParse_parseBody_withIn (hs : parseStart s = .ok s.parseOpened)
    (ht : parseStart (s.withIn m) = .ok (s.withIn m).parseOpened)
    (h : InputAlike m s.parseOpened (s.withIn m).parseOpened) :
    endParse (parseBody (s.withIn m)) = (endParse (parseBody s)).withIn m := by
  have hwalk := walkRelates_inputAlike.walk (s.inLen.toNat + 1) h
  generalize hws : walk (s.inLen.toNat + 1) s.parseOpened = r at hwalk
  generalize hwt : walk (s.inLen.toNat + 1) (s.withIn m).parseOpened = r' at hwalk
  cases hwalk with
  | raised e h' =>
    obtain ⟨rfl, -⟩ := h'
    rw [parseBody_of_raised hs hws, parseBody_of_raised ht hwt]
    rfl
  | ok h' =>
    obtain ⟨rfl, -⟩ := h'
    rw [parseBody_of_walk hs hws, parseBody_of_walk ht hwt, endParse_parseEnd_withIn]

theorem exec_parse_withIn (h : s.Good) (hm : s.ReadsAlike m) :
    AnswersAlike m (exec .parse s) (exec .parse (s.withIn m)) := by
  obtain ⟨⟨-, hmin, -⟩, -, -, -, -, -, -, ⟨-, hwf, -⟩, -⟩ := h
  by_cases hlen : s.inLen.toNat ≤ s.params.inSize
  · have hfile : SameFile s (s.withIn m) := ⟨rfl, rfl, fun a ha => (hm.input hlen a ha).symm, hwf, hwf⟩
    rcases hfile.parseStart hmin with ⟨e, hfails, hfailt⟩ | ⟨hpass, hpast⟩
    · exact ⟨_, exec_parse_of_failed hfails, exec_parse_of_failed hfailt⟩
    · have hopened : InputAlike m s.beginCommand.parseOpened (s.beginCommand.withIn m).parseOpened :=
        ⟨rfl, {
          input := hm.input hlen
          levels := List.forall_mem_singleton.2 le_rfl
          noPcm := fun _ => rfl
          outWf := hwf }⟩
      exact ⟨_, rfl, congrArg Host.Outcome.next (endParse_parseBody_withIn hpass hpast hopened)⟩
  · exact ⟨_, (parsePreChecks s).1 (not_le.1 hlen), (parsePreChecks (s.withIn m)).1 (not_le.1 hlen)⟩

/-! ## Every command and every step -/

theorem exec_withIn {i : Instr} (hi : isCommand i = true) (h : s.Good) (hm : s.ReadsAlike m) :
    AnswersAlike m (exec i s) (exec i (s.withIn m)) := by
  obtain ⟨-, -, -, -, -, -, -, -, hreader, -⟩ := id h
  cases i with
  | parse => exact exec_parse_withIn h hm
  | destroy => exact ⟨_, rfl, rfl⟩
  | decodeMono => exact ⟨_, rfl, congrArg Host.Outcome.next (endCommand_decodeBody_withIn hm (.inl rfl))⟩
  | decodeStereo => exact ⟨_, rfl, congrArg Host.Outcome.next (endCommand_decodeBody_withIn hm (.inr rfl))⟩
  | brInit => exact exec_brInit_withIn s m
  | brReadBit => exact exec_brReadBit_withIn hm hreader
  | brReadBits n => exact exec_brReadBits_withIn hm hreader n
  | chInit c => exact exec_chInit_withIn s m c
  | chDecodeSample c => exact exec_chDecodeSample_withIn hm hreader c
  | cat | glob | head | sinf | slce | sdat | unknownTag | unaryZero | unaryStop | predK0 | predK1 | predK2 | predK3
  | predK4 => cases hi

theorem issueCommand_withIn (h : s.Good) (hm : s.ReadsAlike m) (w : Word) :
    AnswersAlike m (issueCommand w s) (issueCommand w (s.withIn m)) := by
  obtain ⟨-, -, -, ⟨hidle, -⟩, -⟩ := id h
  unfold issueCommand
  rw [if_neg hidle, if_neg (show (s.withIn m).status.state ≠ .busy from hidle)]
  cases hdec : decodeCommand w with
  | ok i => exact exec_withIn (s := { s with cmd := w }) (isCommand_of_decodeCommand hdec) h hm
  | error e => exact ⟨_, rfl, rfl⟩

theorem State.writeArgReg_withIn (s : State) (m : Memory 8) (off : Nat) (v : Word) :
    (s.withIn m).writeArgReg off v = (s.writeArgReg off v).withIn m := by
  unfold State.writeArgReg
  split_ifs <;> rfl

theorem hostAccess_writeReg_withIn (h : s.Good) (hm : s.ReadsAlike m) (off : Nat) (v : Word) :
    AnswersAlike m (hostAccess (.writeReg off v) s) (hostAccess (.writeReg off v) (s.withIn m)) := by
  obtain ⟨-, -, -, ⟨hidle, -⟩, -⟩ := id h
  by_cases hoff : off = 0
  · subst hoff
    exact issueCommand_withIn h hm v
  · refine ⟨_, hostAccess_writeReg hoff (.inl hidle), ?_⟩
    rw [hostAccess_writeReg (s := s.withIn m) hoff (.inl hidle), State.writeArgReg_withIn]

theorem step_of_noAccess (hwork : s.work = .none) (hhost : s.host = []) : step s = .next s := by
  simp only [step, hwork, hostStep, hhost]

/-- A step that is not a host write of IN answers, and answers alike from another IN (R63, R71). -/
theorem step_withIn (h : s.Good) (hexists : s.nextAccessExists = true)
    (hnotIn : ∀ a b rest, s.host ≠ .writeIn a b :: rest) (hm : s.ReadsAlike m) :
    AnswersAlike m (step s) (step (s.withIn m)) := by
  obtain ⟨-, hwork, -⟩ := id h
  cases hhost : s.host with
  | nil => exact ⟨s, step_of_noAccess hwork hhost, step_of_noAccess (s := s.withIn m) hwork hhost⟩
  | cons access rest =>
    rw [step_hostAccess hwork hhost, step_hostAccess (s := s.withIn m) hwork hhost]
    cases access with
    | writeIn a b => exact absurd hhost (hnotIn a b rest)
    | writeReg off v => exact hostAccess_writeReg_withIn (s := { s with host := rest }) h hm off v
    | readReg off => exact ⟨_, rfl, rfl⟩
    | readOut i =>
      have hi : i < s.params.outSize := by simpa only [State.nextAccessExists, hhost, decide_eq_true_eq] using hexists
      exact ⟨_, hostAccess_readOut (s := { s with host := rest }) hi,
        hostAccess_readOut (s := { s.withIn m with host := rest }) hi⟩

/-- R269: a good state's next step answers a next state. -/
theorem step_answers (h : s.Good) (hexists : s.nextAccessExists = true) : ∃ t, step s = .next t := by
  by_cases hin : ∃ a b rest, s.host = .writeIn a b :: rest
  · obtain ⟨a, b, rest, hhost⟩ := hin
    obtain ⟨-, hwork, -, ⟨hidle, -⟩, -⟩ := h
    have ha : a < s.params.inSize := by simpa only [State.nextAccessExists, hhost, decide_eq_true_eq] using hexists
    exact ⟨_, (step_hostAccess hwork hhost).trans (hostAccess_writeIn (s := { s with host := rest }) b hidle ha)⟩
  · have hnotIn : ∀ a b rest, s.host ≠ .writeIn a b :: rest := fun a b rest hhost => hin ⟨a, b, rest, hhost⟩
    obtain ⟨t, hstep, -⟩ := step_withIn (m := s.inMem) h hexists hnotIn fun _ _ => rfl
    exact ⟨t, hstep⟩

/-! ## OUT past its end (R61) -/

theorem OutBelow.read_past {bound i : Nat} {m : Memory 16} (h : OutBelow bound m) (hi : bound ≤ i) :
    Memory.read m i = 0 := by
  induction m with
  | nil => rfl
  | cons c rest ih =>
    obtain ⟨hc, hrest⟩ := List.forall_mem_cons.1 h
    obtain ⟨b, v⟩ := c
    rw [Memory.read_cons, if_neg (hc.trans_le hi).ne']
    exact ih hrest

theorem State.Good.read_outMem_past (h : s.Good) {i : Nat} (hi : s.params.outSize ≤ i) : Memory.read s.outMem i = 0 := by
  obtain ⟨-, -, -, -, -, -, -, ⟨-, -, hbelow⟩, -⟩ := h
  exact OutBelow.read_past hbelow hi

/-- Settles O54: the step answers; both states list no slot past OUT's end, by the invariant; and another IN is read alike. -/
theorem goodStatesStepSafely : Obligations.GoodStatesStepSafely := by
  intro s h hexists
  obtain ⟨t, hstep⟩ := step_answers h hexists
  refine ⟨t, hstep, fun i hi => ?_, fun hnotIn m hm => ?_⟩
  · have ht : t.params.outSize ≤ i := by rwa [step_params hstep]
    rw [(stepKeepsGood s t h hstep).read_outMem_past ht, h.read_outMem_past hi]
  · obtain ⟨u, hu, hother⟩ := step_withIn h hexists hnotIn hm
    rw [hstep] at hu
    injection hu with hu
    exact hu ▸ hother

end Sys2Proof.Machine
end

section
/-! PROOFS. 70_reset_and_hazards.md, R280: the state after reset. -/

namespace Sys2Proof.Machine

/-! ## What the host reads after reset -/

/-- R29: with no valid entry, the slice table reads as 0 throughout. -/
theorem State.readSliceTable_of_slices_nil {s : State} (h : s.slices = []) (off : Nat) : s.readSliceTable off = 0 := by
  simp only [State.readSliceTable, h, List.getElem?_nil, Option.map_none, Option.getD_none, ite_self]

theorem reset_status_word : State.reset.status.word = 0 := by decide

theorem reset_sliceCount : State.reset.sliceCount = 0 := rfl

/-- R280: from 0x100 up the table is empty; below it every register holds 0, and what is not mapped reads as 0. -/
theorem reset_readReg (off : Nat) : State.reset.readReg off = 0 := by
  by_cases hoff : 0x100 ≤ off
  · rw [State.readReg_of_le _ hoff, State.readSliceTable_of_slices_nil rfl]
  · unfold State.readReg
    rw [if_neg (c := 0x100 ≤ off) hoff, reset_status_word, reset_sliceCount]
    simp only [State.reset, ite_self]

/-- Settles O1: REG by `reset_readReg`; the reader, the channels and the walker as `State.reset` stores them. -/
theorem resetStateAsStated : Obligations.ResetStateAsStated :=
  ⟨reset_readReg, reset_status_word, rfl, rfl, rfl, rfl⟩

/-! ## The invariant at reset -/

theorem Params.default_valid : Params.default.Valid := by decide

/-- R251: after reset `STATUS` is IDLE with no error. -/
theorem reset_status_good : State.reset.status.Good := by decide

/-- R28: every metadata register is 0. -/
theorem reset_metaGood : State.reset.MetaGood := by decide

theorem reset_slicesGood : State.reset.SlicesGood := ⟨Nat.zero_le _, List.forall_mem_nil _⟩

/-- No cell is listed in either memory (log 3). -/
theorem reset_memoryGood : State.reset.MemoryGood :=
  ⟨⟨reset_inMem_wf, List.forall_mem_nil _⟩, reset_outMem_wf, List.forall_mem_nil _⟩

/-- R35, R38: the initial channel is the one CH_INIT puts. -/
theorem Channel.initial_good : Channel.initial.Good := initChannel_good

/-- Settles O2: no command is in progress, no PCM is held, the reader's slice is empty; each other part by its own lemma. -/
theorem resetIsGood : Obligations.ResetIsGood :=
  ⟨Params.default_valid, rfl, rfl, reset_status_good, reset_metaGood, reset_slicesGood, Nat.zero_le _, reset_memoryGood,
    rfl, Channel.initial_good, Channel.initial_good⟩

end Sys2Proof.Machine
end
